-- ==== Sys2Proof/Word.lean ====
section
/-!
DEFINITION. The element types of the block's storage (00_scope.md section 5, 20_memory.md R60):
32-bit registers, bytes, and 16-bit samples.
-/

namespace Sys2Proof

/-- A register value, a length or an offset: `u32` (10_state.md R21, R28). -/
abbrev Word := BitVec 32

/-- An element of a byte buffer: `u8` (20_memory.md R60). -/
abbrev Byte := BitVec 8

/-- An element of `IN` or `RS`: an `i16`, held as its 16-bit two's-complement pattern
(00_scope.md section 5); its value is `BitVec.toInt`. -/
abbrev Sample := BitVec 16

end Sys2Proof
end

