-- ==== Sys2Proof/Syntax.lean ====
section
/-!
DEFINITION. The fifteen commands of the block (30_encoding.md R91), one constructor per row of
spec/opcode_table.json.
-/

namespace Sys2Proof

/-- A command, as decoding gives it (30_encoding.md R99). The only operand a command word carries
is the segment index of `HEXOFF` (R92). -/
inductive Instr where
  /-- `NOP`, opcode 0x00 (R213). -/
  | nop
  /-- `RATE`, opcode 0x01 (R122). -/
  | rate
  /-- `QUANT`, opcode 0x02 (R132). -/
  | quant
  /-- `RESAMP`, opcode 0x03 (R145). -/
  | resamp
  /-- `ALIGN`, opcode 0x04 (R162). -/
  | align
  /-- `PUSH`, opcode 0x05 (R164). -/
  | push
  /-- `LSINGLE`, opcode 0x06 (R166). -/
  | lsingle
  /-- `LSTACK`, opcode 0x07 (R168). -/
  | lstack
  /-- `LEQUAL`, opcode 0x08 (R171). -/
  | lequal
  /-- `HEXOFF idx`, opcode 0x09 (R175); `idx` is the zero-extended 24-bit argument (R92). -/
  | hexoff (idx : Nat)
  /-- `HEXSLOT`, opcode 0x0A (R176). -/
  | hexslot
  /-- `SER`, opcode 0x0B (R197). -/
  | ser
  /-- `CONV`, opcode 0x0C (R210). -/
  | conv
  /-- `CLEAR`, opcode 0x0E (R214). -/
  | clear
  /-- `RESET`, opcode 0x0F (R215). -/
  | reset
  deriving DecidableEq, Repr

end Sys2Proof
end

