-- ==== Sys2Proof/WellFormed.lean ====
section
/-!
DEFINITION. Which command terms have a command word (30_encoding.md R90, R92).
-/

namespace Sys2Proof

/-- The index of `HEXOFF` fits the 24-bit argument field; the other commands carry no operand
(30_encoding.md R90, R92). -/
def Instr.wellFormed : Instr → Bool
  | .nop => true
  | .rate => true
  | .quant => true
  | .resamp => true
  | .align => true
  | .push => true
  | .lsingle => true
  | .lstack => true
  | .lequal => true
  | .hexoff idx => decide (idx < 2 ^ 24)
  | .hexslot => true
  | .ser => true
  | .conv => true
  | .clear => true
  | .reset => true

end Sys2Proof
end

