-- ==== Sys2Proof/Decode.lean ====
section
/-!
DEFINITION. Decoding of command words, total and by name, and the encoder beside it
(30_encoding.md R90 to R95, R99).
-/

namespace Sys2Proof

/-- Why a word selects no command. -/
inductive IllegalWord where
  /-- Opcode 0x0D or 0x10 to 0xFF (R93). -/
  | reservedOpcode
  /-- A non-zero argument in a command other than `HEXOFF` (R94). -/
  | nonzeroArg
  deriving DecidableEq, Repr

/-- `op = w[31:24]` (R90). -/
def opField (w : Word) : Nat := (w.extractLsb' 24 8).toNat

/-- `arg = w[23:0]`, zero-extended (R90, R92). -/
def argField (w : Word) : Nat := (w.extractLsb' 0 24).toNat

/-- The opcode map of the commands whose argument must be 0 (R91). -/
def plainCommand : Nat → Option Instr
  | 0x00 => some .nop
  | 0x01 => some .rate
  | 0x02 => some .quant
  | 0x03 => some .resamp
  | 0x04 => some .align
  | 0x05 => some .push
  | 0x06 => some .lsingle
  | 0x07 => some .lstack
  | 0x08 => some .lequal
  | 0x0A => some .hexslot
  | 0x0B => some .ser
  | 0x0C => some .conv
  | 0x0E => some .clear
  | 0x0F => some .reset
  | _ => none

/-- `decode` (R99): a command, or the verdict illegal with its reason. -/
def decode (w : Word) : Except IllegalWord Instr :=
  if opField w = 0x09 then .ok (.hexoff (argField w))
  else
    match plainCommand (opField w) with
    | none => .error .reservedOpcode
    | some i => if argField w = 0 then .ok i else .error .nonzeroArg

/-- The opcode of each command (R91). -/
def opcode : Instr → Nat
  | .nop => 0x00
  | .rate => 0x01
  | .quant => 0x02
  | .resamp => 0x03
  | .align => 0x04
  | .push => 0x05
  | .lsingle => 0x06
  | .lstack => 0x07
  | .lequal => 0x08
  | .hexoff _ => 0x09
  | .hexslot => 0x0A
  | .ser => 0x0B
  | .conv => 0x0C
  | .clear => 0x0E
  | .reset => 0x0F

/-- The argument of each command (R90, R92). -/
def argument : Instr → Nat
  | .nop => 0
  | .rate => 0
  | .quant => 0
  | .resamp => 0
  | .align => 0
  | .push => 0
  | .lsingle => 0
  | .lstack => 0
  | .lequal => 0
  | .hexoff idx => idx
  | .hexslot => 0
  | .ser => 0
  | .conv => 0
  | .clear => 0
  | .reset => 0

/-- The command word `{op, arg}` (R90). -/
def encode (i : Instr) : Word :=
  (BitVec.ofNat 8 (opcode i) ++ BitVec.ofNat 24 (argument i) : BitVec (8 + 24))

/-- What the decoder reads from the word with bits `w`, of which the table gives `nbits`; a command
is one 32-bit word presented whole, so there is no byte order to apply (R65, R90). -/
def decodeTableWord (nbits w : Nat) : Option Instr :=
  match decode (BitVec.ofNat 32 (w % 2 ^ nbits)) with
  | .ok i => some i
  | .error _ => none

end Sys2Proof
end

