-- ==== Sys2Proof/Config.lean ====
section
/-!
DEFINITION. The constants W2A fixes and the parameters of one implementation (00_scope.md section 4,
R6, R7; 10_state.md R40 to R42). The parameters the spec leaves OPEN are one opaque constant that
meets the spec's constraints and about which nothing else can be proved (notes/assumptions/1.md).
-/

namespace Sys2Proof.Config

/-- `NOTE_COUNT` (00_scope.md section 4). -/
def noteCount : Nat := 96

/-- `OVERSIZE_LIMIT`, the threshold of the warning (R165). -/
def oversizeLimit : Nat := 65535

/-- `PAGE_RANGE`, information only (R27). -/
def pageRange : Nat := 65280

/-- `VHDR_SIZE` (00_scope.md section 4). -/
def vhdrSize : Nat := 20

/-- `PAD_FILL` (00_scope.md section 4). -/
def padFill : Byte := 0x00

/-- `SEG_MAX`, at the spec's decided default (R32, decision D7; notes/assumptions/9.md). -/
def segMax : Nat := 2 ^ 24

/-- `LEN_MAX` (R31, decision D8). -/
def lenMax : Nat := 2 ^ 32 - 256

/-- The longest `OUT` (R31). -/
def outMax : Nat := 2 ^ 32 + 7

/-- The longest `NOTE` or `LABEL` (R31). -/
def stringMax : Nat := 255

/-- The longest `HEX` (R31). -/
def hexMax : Nat := 6

/-- `FORM_TYPE`, "8SVX": the spec's decision D5 (R42; notes/assumptions/8.md). -/
def formType : List Byte := [0x38, 0x53, 0x56, 0x58]

/-- The one key W2A prints, "C-2" (R7). -/
def keyC2 : List Byte := [0x43, 0x2D, 0x32]

/-- One entry of `NOTE_ROM` (R41). -/
structure NoteEntry where
  key    : List Byte
  period : Nat
  deriving DecidableEq, Repr

/-- The open parameters (00_scope.md section 4): `CLOCK_HZ`, `NOTE_ROM`, `NAME_TAG`. -/
structure Params where
  clockHz : Nat
  noteRom : List NoteEntry
  nameTag : List Byte
  deriving DecidableEq, Repr

/-- No key stands twice in the list ("keys pairwise different", R41). -/
def keysDistinct : List NoteEntry → Bool
  | [] => true
  | e :: es => es.all (fun f => f.key != e.key) && keysDistinct es

/-- One entry of the table is legal: a key of 1 to 255 bytes and a period of at least 1 (R41). -/
def NoteEntry.legal (e : NoteEntry) : Bool :=
  e.key != [] && decide (e.key.length ≤ stringMax) && decide (1 ≤ e.period)

/-- What the spec requires of the open parameters (R7, R40, R41, R42; 00_scope.md section 4). -/
def Params.legal (p : Params) : Bool :=
  decide (1 ≤ p.clockHz) && decide (p.clockHz < 2 ^ 32)
    && decide (p.noteRom.length = noteCount)
    && p.noteRom.all NoteEntry.legal
    && keysDistinct p.noteRom
    && p.noteRom.any (fun e => e.key == keyC2 && p.clockHz / e.period == 8287)
    && decide (p.nameTag.length ≤ 254)
    && p.nameTag.all (fun b => b != 0 && decide (b.toNat < 128))

/-- 96 distinct three-byte keys: a letter, `-` or `#`, an octave digit. -/
def fixtureKeys : List (List Byte) :=
  [0x30, 0x31, 0x32, 0x33, 0x34, 0x35, 0x36, 0x37].flatMap fun octave =>
    [[0x43, 0x2D], [0x43, 0x23], [0x44, 0x2D], [0x44, 0x23], [0x45, 0x2D], [0x46, 0x2D],
     [0x46, 0x23], [0x47, 0x2D], [0x47, 0x23], [0x41, 0x2D], [0x41, 0x23], [0x42, 0x2D]].map
      fun name => name ++ [octave]

/-- The test configuration T0 of 95_test_vectors.md section 0 ("not a statement about the real
hardware"): "C-2" has period 428, every other period is arbitrary. It shows that the constraints can
be met, and the tests run on it; no meaning reads it. -/
def fixture : Params where
  clockHz := 3546895
  noteRom := fixtureKeys.map fun k => ⟨k, 428⟩
  nameTag := [0x54, 0x41, 0x47]

/-- An implementation: parameters together with the proof that they are legal. The defaults only
show that the type is inhabited, which an opaque constant of it needs. -/
structure Implementation where
  params : Params := fixture
  legal  : params.legal = true := by decide +kernel
  deriving Inhabited

/-- The implementation at hand, fixed before the first command (R6): nothing about it can be proved
but that it is legal. -/
opaque impl : Implementation

/-- Its parameters. -/
def params : Params := impl.params

end Sys2Proof.Config
end

