-- ==== Sys2Proof/Machine/State.lean ====
section
/-!
DEFINITION. The state of one block and of the host's side of its interface, as plain data
(10_state.md R20 to R51; 20_memory.md R62), and the two reason types of the model.
-/

namespace Sys2Proof.Machine

/-- A segment's four stored attributes (R33). -/
structure Segment where
  label    : List Byte
  note     : List Byte
  targetHz : Word
  data     : List Byte
  deriving DecidableEq, Repr

/-- The byte buffers (R30). -/
inductive ByteBuf where
  | note | label | q | lay | out | hex | fnote | flabel
  deriving DecidableEq, Repr

/-- The sample buffers, `IN` and `RS` (R30). -/
inductive SampleBuf where
  | inBuf | rs
  deriving DecidableEq, Repr

/-- What the host can do between commands: the seven operations of R62 (`HostSet` and `HostGet` once
per element type), and the reset event of R260 (notes/assumptions/12.md). -/
inductive HostOp where
  /-- `HostSet(B, s)` for a byte buffer. -/
  | setBytes (b : ByteBuf) (bytes : List Byte)
  /-- `HostSet(B, s)` for a sample buffer. -/
  | setSamples (b : SampleBuf) (samples : List Sample)
  /-- `HostGet(B)` for a byte buffer. -/
  | getBytes (b : ByteBuf)
  /-- `HostGet(B)` for a sample buffer. -/
  | getSamples (b : SampleBuf)
  /-- `HostGetSeg(i)`. -/
  | getSeg (i : Nat)
  /-- `HostGetOffs()`. -/
  | getOffs
  /-- `HostWriteReg(r, v)`. -/
  | writeReg (r : Nat) (v : Word)
  /-- `HostReadReg(r)`. -/
  | readReg (r : Nat)
  /-- `HostCommand(w)`. -/
  | command (w : Word)
  /-- The reset event: power-on or an external reset, between commands (R260). -/
  | resetEvent
  deriving DecidableEq, Repr

/-- What a reading host operation returns to the host (R62). -/
inductive Reply where
  | bytes (bytes : List Byte)
  | samples (samples : List Sample)
  | segment (g : Segment)
  | offsets (offs : List Word)
  | register (v : Word)
  deriving DecidableEq, Repr

/-- Everything the spec gives the machine. `STATUS`, `NSEG`, `NOFF` and the segment window are views
(R23, R24, R37), not storage; the loop counters live inside one command (R45, R46). The last two
fields are the model's: the host's pending operations and the last value it was given
(notes/assumptions/2.md, 3.md). -/
structure State where
  /-- Register 4, `SRCHZ` (R21). -/
  srcHz  : Word
  /-- Register 5, `CHANS` (R21). -/
  chans  : Word
  /-- Register 6, `DSTHZ` (R21). -/
  dstHz  : Word
  /-- Register 7, `AREG` (R21). -/
  areg   : Word
  /-- Register 8, `SLOT` (R23). -/
  slot   : Word
  /-- Register 11, `SEGSEL` (R37). -/
  segSel : Word
  /-- Register 2, `FCODE` (R26). -/
  fcode  : Word
  /-- Register 3, `FVALUE` (R26). -/
  fvalue : Word
  /-- Buffer `NOTE` (R30). -/
  note   : List Byte
  /-- Buffer `LABEL` (R30). -/
  label  : List Byte
  /-- Buffer `IN` (R30). -/
  inBuf  : List Sample
  /-- Buffer `RS` (R30). -/
  rs     : List Sample
  /-- Buffer `Q` (R30). -/
  q      : List Byte
  /-- Buffer `LAY` (R30). -/
  lay    : List Byte
  /-- Buffer `OUT` (R30). -/
  out    : List Byte
  /-- Buffer `HEX` (R30). -/
  hex    : List Byte
  /-- Buffer `FNOTE` (R26, R30). -/
  fnote  : List Byte
  /-- Buffer `FLABEL` (R26, R30). -/
  flabel : List Byte
  /-- The segment table `SEG`, index 0 first (R32). -/
  seg    : List Segment
  /-- The start offsets `OFFS` (R34). -/
  offs   : List Word
  /-- The host operations still to come, next first (R62; notes/assumptions/2.md). -/
  script : List HostOp
  /-- What the last reading host operation returned (R62; notes/assumptions/3.md). -/
  reply  : Option Reply
  deriving DecidableEq, Repr

/-- Where a step stops because the host names something that does not exist. No command raises one:
the block's own hard failures are state (R238), not faults of the model. -/
inductive Fault where
  /-- Raised by `HostGetSeg(i)` with `i >= |SEG|`: R62 gives the operation for `i < |SEG|` only.
  Safe: the model stops where the spec gives no result. -/
  | noSuchSegment
  deriving DecidableEq, Repr

/-- Why an operation has no meaning. -/
inductive Refusal where
  /-- An instruction without a meaning yet; no arm of `exec` answers it. Safe. -/
  | notModelled (mnemonic : String)
  /-- Raised by `HostSet` on `OUT`, `HEX`, `FNOTE` or `FLABEL`: R62 gives `HostSet` for host-writable
  buffers only (R30). Safe: the model stops where the spec gives no effect. -/
  | hostSetReadOnly
  /-- Raised by `HostSet` with a sequence longer than the buffer's limit: "The host cannot store a
  longer sequence than the limit" (R31). Safe: the model stops where the spec gives no effect. -/
  | hostSetTooLong
  deriving DecidableEq, Repr

/-- The state after reset (R50): every register 0, every buffer and list empty; no host operation is
pending and none has returned anything (DESIGN CHOICE, notes/assumptions/2.md, 3.md). -/
def State.reset : State where
  srcHz  := 0
  chans  := 0
  dstHz  := 0
  areg   := 0
  slot   := 0
  segSel := 0
  fcode  := 0
  fvalue := 0
  note   := []
  label  := []
  inBuf  := []
  rs     := []
  q      := []
  lay    := []
  out    := []
  hex    := []
  fnote  := []
  flabel := []
  seg    := []
  offs   := []
  script := []
  reply  := none

end Sys2Proof.Machine
end

