-- ==== Sys2Proof/Machine/Flags.lean ====
section
/-!
DEFINITION. The two status flags and the register `STATUS` (10_state.md R24, R29), all functions of
other state.
-/

namespace Sys2Proof.Machine

/-- `HALT`: a hard failure is recorded and not yet cleared (R29). -/
def halted (s : State) : Bool := s.fcode != 0

/-- A segment is oversize when its unpadded length exceeds 65535 bytes (R165). -/
def oversize (g : Segment) : Bool := decide (g.data.length > Config.oversizeLimit)

/-- `WARN`: some segment is oversize (R29, R234). -/
def warn (s : State) : Bool := s.seg.any oversize

/-- `STATUS`: bit 0 is `HALT`, bit 1 is `WARN`, the other bits read as 0 (R24). -/
def statusWord (s : State) : Word :=
  (if halted s then 1 else 0) ||| (if warn s then 2 else 0)

end Sys2Proof.Machine
end

