-- ==== Sys2Proof/Machine/Ops.lean ====
section
/-!
DEFINITION. The named operations over the block's state: the buffers as the host reaches them, the
rule that a halted block ignores commands, fault entry, and what `CLEAR` and reset write.
-/

namespace Sys2Proof.Machine

/-- How a command or a host operation ends. -/
abbrev Result := Host.Outcome State Fault Refusal

/-! ### Buffers (R30, R31, R60) -/

/-- The content of a byte buffer. -/
def bytesOf (b : ByteBuf) (s : State) : List Byte :=
  match b with
  | .note => s.note
  | .label => s.label
  | .q => s.q
  | .lay => s.lay
  | .out => s.out
  | .hex => s.hex
  | .fnote => s.fnote
  | .flabel => s.flabel

/-- The content of a sample buffer. -/
def samplesOf (b : SampleBuf) (s : State) : List Sample :=
  match b with
  | .inBuf => s.inBuf
  | .rs => s.rs

/-- `MemRead(S, a, n)`: `n` elements from index `a`, defined only inside the buffer
(00_scope.md section 5, R67). -/
def memRead {α : Type} (buffer : List α) (a n : Nat) : Option (List α) :=
  if a + n ≤ buffer.length then some ((buffer.drop a).take n) else none

/-- How many elements a byte buffer may hold (R31). -/
def byteLimit : ByteBuf → Nat
  | .note => Config.stringMax
  | .label => Config.stringMax
  | .q => Config.lenMax
  | .lay => Config.lenMax
  | .out => Config.outMax
  | .hex => Config.hexMax
  | .fnote => Config.stringMax
  | .flabel => Config.stringMax

/-- Which byte buffers the host may write: those with access RW (R30). -/
def hostWritable : ByteBuf → Bool
  | .note => true
  | .label => true
  | .q => true
  | .lay => true
  | .out => false
  | .hex => false
  | .fnote => false
  | .flabel => false

/-- `B <- bytes`. -/
def storeBytes (b : ByteBuf) (bytes : List Byte) (s : State) : State :=
  match b with
  | .note => { s with note := bytes }
  | .label => { s with label := bytes }
  | .q => { s with q := bytes }
  | .lay => { s with lay := bytes }
  | .out => { s with out := bytes }
  | .hex => { s with hex := bytes }
  | .fnote => { s with fnote := bytes }
  | .flabel => { s with flabel := bytes }

/-- `B <- samples`. -/
def storeSamples (b : SampleBuf) (samples : List Sample) (s : State) : State :=
  match b with
  | .inBuf => { s with inBuf := samples }
  | .rs => { s with rs := samples }

/-- `HostSet` on a byte buffer: only a host-writable one, only up to its limit (R30, R31, R62;
notes/assumptions/6.md). -/
def hostSetBytes (b : ByteBuf) (bytes : List Byte) (s : State) : Result :=
  if hostWritable b = false then .refused .hostSetReadOnly
  else if bytes.length > byteLimit b then .refused .hostSetTooLong
  else .next (storeBytes b bytes s)

/-- `HostSet` on `IN` or `RS`, both host-writable with limit `LEN_MAX` (R30, R31, R62). -/
def hostSetSamples (b : SampleBuf) (samples : List Sample) (s : State) : Result :=
  if samples.length > Config.lenMax then .refused .hostSetTooLong
  else .next (storeSamples b samples s)

/-- A read changes nothing of the block (R71); the host is given the value. -/
def deliver (r : Reply) (s : State) : State := { s with reply := some r }

/-- `HostGetSeg(i)`, for `i < |SEG|` (R36, R62; notes/assumptions/7.md). -/
def hostGetSeg (i : Nat) (s : State) : Result :=
  match s.seg[i]? with
  | some g => .next (deliver (.segment g) s)
  | none => .fault .noSuchSegment

/-! ### Faults and the halt (R230, R238, R239) -/

/-- The block's hard failures (R230). Code 4, `OversizeSegment`, is a warning and no fault (R234). -/
inductive HardFault where
  | invalidNote | nonMono | emptyAudio | illegalCommand | badOperand | overflow
  deriving DecidableEq, Repr

/-- The code written to `FCODE` (R230). -/
def faultCode : HardFault → Word
  | .invalidNote => 1
  | .nonMono => 2
  | .emptyAudio => 3
  | .illegalCommand => 5
  | .badOperand => 6
  | .overflow => 7

/-- Fault entry, `raise F(v)`: the four parts of the fault record are written and nothing else (R238). -/
def raise (f : HardFault) (v : Word) (s : State) : State :=
  { s with fcode := faultCode f, fvalue := v, fnote := s.note, flabel := s.label }

/-- A command's effect, which a halted block ignores whole (R239, R240). -/
def unlessHalted (effect : State → State) (s : State) : Result :=
  .next (if halted s then s else effect s)

/-! ### The segment table, and what `CLEAR` and reset write -/

/-- The segment is appended at the end of `SEG` (R32). -/
def appendSegment (g : Segment) (s : State) : State := { s with seg := s.seg ++ [g] }

/-- What `CLEAR` writes (R214): the record, the run's segments and its products. -/
def clearRun (s : State) : State :=
  { s with
    fcode := 0, fvalue := 0, fnote := [], flabel := []
    seg := [], offs := [], slot := 0
    lay := [], out := [], hex := [] }

/-- What the `RESET` command and the reset event write: every register and buffer takes its reset
value (R215, R260, R261). The host's own two fields are not the block's (notes/assumptions/11.md). -/
def resetBlock (s : State) : State :=
  { State.reset with script := s.script, reply := s.reply }

end Sys2Proof.Machine
end

