-- ==== Sys2Proof/Machine/Quantizer.lean ====
section
/-!
DEFINITION. The unit pcm16_to_pcm8_quantizer and the command QUANT (41_quantizer.md).
-/

namespace Sys2Proof.Machine

/-- `quant(s) = (s + 32768) >> 8`, on integers (R131). -/
def quant (x : Sample) : Byte := BitVec.ofInt 8 ((x.toInt + 32768) / 256)

/-- One byte per sample, in order (R130). -/
def quantize (samples : List Sample) : List Byte := samples.map quant

/-- What QUANT does on a running block (R132). -/
def quantEffect (s : State) : State := { s with q := quantize s.rs }

/-- QUANT (R132). -/
def execQuant (s : State) : Result := unlessHalted quantEffect s

end Sys2Proof.Machine
end

