-- ==== Sys2Proof/Machine/RateTable.lean ====
section
/-!
DEFINITION. The unit note_rate_lut and the command RATE (40_rate_table.md).
-/

namespace Sys2Proof.Machine

/-- The entry whose whole key equals `k`, byte for byte (R120). -/
def lookup (p : Config.Params) (k : List Byte) : Option Config.NoteEntry :=
  p.noteRom.find? fun e => e.key == k

/-- `rate(k) = CLOCK_HZ div period`, defined exactly when an entry matches (R121). -/
def rateOf (p : Config.Params) (k : List Byte) : Option Word :=
  (lookup p k).map fun e => BitVec.ofNat 32 (p.clockHz / e.period)

/-- What RATE does on a running block (R122). -/
def rateEffect (p : Config.Params) (s : State) : State :=
  match rateOf p s.note with
  | none => raise .invalidNote (BitVec.ofNat 32 s.note.length) s
  | some r => { s with dstHz := r }

/-- RATE (R122, R231). -/
def execRate (s : State) : Result := unlessHalted (rateEffect Config.params) s

end Sys2Proof.Machine
end

