-- ==== Sys2Proof/Machine/Resampler.lean ====
section
/-!
DEFINITION. The unit zero_order_hold_resampler_fixedpoint and the command RESAMP (42_resampler.md).
The loop is W2A's text and the normative form (R144), so it is the definition here.
-/

namespace Sys2Proof.Machine

/-- The output length, rounded half away from zero, exact on unbounded integers (R142). -/
def outlen (len s d : Nat) : Nat := (2 * len * d + s) / (2 * s)

/-- The inner loop "while acc >= d": subtract `d` and move the cursor on, clamped to `last` (R143).
The fuel is the accumulator itself: with `d >= 1` every pass takes at least 1 from it, and the loop
is never reached with `d = 0` (R147, R267). -/
def advance (d last : Nat) : Nat → Nat → Nat → Nat × Nat
  | 0, acc, idx => (acc, idx)
  | fuel + 1, acc, idx =>
    if d ≤ acc then advance d last fuel (acc - d) (min (idx + 1) last) else (acc, idx)

/-- The outer loop, `n` positions to go: emit `x[idx]` first, then advance the accumulator (R143).
The cursor never leaves a non-empty input and the body never runs on an empty one, so the emit is
always one sample (R67, R147; notes/assumptions/16.md). -/
def zohLoop (x : List Sample) (s d : Nat) : Nat → Nat → Nat → List Sample
  | 0, _, _ => []
  | n + 1, acc, idx =>
    x[idx]?.toList ++
      zohLoop x s d n (advance d (x.length - 1) (acc + s) (acc + s) idx).1
        (advance d (x.length - 1) (acc + s) (acc + s) idx).2

/-- `zoh(x, s, d)` for `s >= 1`: the input itself when the rates are equal (R141), else the loop from
`acc = 0`, `idx = 0` (R143, R45). -/
def zoh (x : List Sample) (s d : Nat) : List Sample :=
  if s = d then x else zohLoop x s d (outlen x.length s d) 0 0

/-- The resampled length would exceed `LEN_MAX` (R145, R237); not asked on the fast path (R141). -/
def resampleOverflows (len s d : Nat) : Bool :=
  decide (s ≠ d ∧ outlen len s d > Config.lenMax)

/-- What RESAMP does on a running block (R145, R150). -/
def resampEffect (s : State) : State :=
  if s.srcHz = 0 then raise .badOperand 1 s
  else if resampleOverflows s.inBuf.length s.srcHz.toNat s.dstHz.toNat then raise .overflow 1 s
  else { s with rs := zoh s.inBuf s.srcHz.toNat s.dstHz.toNat }

/-- RESAMP (R145). -/
def execResamp (s : State) : Result := unlessHalted resampEffect s

end Sys2Proof.Machine
end

