-- ==== Sys2Proof/Machine/Pipeline.lean ====
section
/-!
DEFINITION. The command CONV: the per-input pipeline in one command (45_pipeline_system.md R210 to
R212).
-/

namespace Sys2Proof.Machine

/-- The writes of a CONV whose checks have passed, with target rate `d` (R210). -/
def convert (d : Word) (s : State) : State :=
  { s with
    dstHz := d
    rs := zoh s.inBuf s.srcHz.toNat d.toNat
    q := quantize (zoh s.inBuf s.srcHz.toNat d.toNat)
    seg := s.seg ++
      [{ label := s.label, note := s.note, targetHz := d,
         data := quantize (zoh s.inBuf s.srcHz.toNat d.toNat) }] }

/-- What CONV does on a running block: every check, in the order of R211, before any write. -/
def convEffect (p : Config.Params) (s : State) : State :=
  if s.chans ≠ 1 then raise .nonMono s.chans s
  else if s.inBuf.length = 0 then raise .emptyAudio 0 s
  else
    match rateOf p s.note with
    | none => raise .invalidNote (BitVec.ofNat 32 s.note.length) s
    | some d =>
      if s.srcHz = 0 then raise .badOperand 1 s
      else if resampleOverflows s.inBuf.length s.srcHz.toNat d.toNat then raise .overflow 1 s
      else if s.seg.length ≥ Config.segMax then raise .overflow 2 s
      else convert d s

/-- CONV (R210). -/
def execConv (s : State) : Result := unlessHalted (convEffect Config.params) s

end Sys2Proof.Machine
end

