-- ==== Sys2Proof/Machine/Operands.lean ====
section
/-!
DEFINITION. The value forms the commands and the host use: byte-order helpers, zero fill and
hexadecimal text (00_scope.md section 5, 20_memory.md R63, R64, 43_alignment_stacking.md R174).
-/

namespace Sys2Proof.Machine

/-- `be32(v)`: the most significant byte first (00_scope.md section 5, R63). -/
def be32 (v : Word) : List Byte :=
  [v.extractLsb' 24 8, v.extractLsb' 16 8, v.extractLsb' 8 8, v.extractLsb' 0 8]

/-- `be16(v)` (00_scope.md section 5, R63). -/
def be16 (v : BitVec 16) : List Byte := [v.extractLsb' 8 8, v.extractLsb' 0 8]

/-- `le16(b0, b1)`: the low byte first, read as two's complement (00_scope.md section 5, R64). -/
def le16 (b0 b1 : Byte) : Sample := (b1 ++ b0 : BitVec (8 + 8))

/-- The samples of a little-endian byte sequence, as the decoder hands it to the host (R64): the
host's duty before it loads `IN`; no command reads bytes as samples (R65). A last single byte makes no
sample and is dropped (DESIGN CHOICE, safe: R64 says nothing of an odd length;
notes/assumptions/18.md). -/
def samplesOfBytes : List Byte → List Sample
  | b0 :: b1 :: rest => le16 b0 b1 :: samplesOfBytes rest
  | _ => []

/-- `zeros(n)`: `n` bytes of the fill value 0x00 (00_scope.md section 5, R79). -/
def zeros (n : Nat) : List Byte := List.replicate n Config.padFill

/-- One upper-case hexadecimal digit in ASCII, for `d < 16` (R174). -/
def hexDigit (d : Nat) : Byte := BitVec.ofNat 8 (if d < 10 then 0x30 + d else 0x41 + (d - 10))

/-- The base-16 digits of `v`, most significant first, at most `fuel + 1` of them. -/
def hexDigits : Nat → Nat → List Byte
  | 0, v => [hexDigit (v % 16)]
  | fuel + 1, v =>
    if v < 16 then [hexDigit v] else hexDigits fuel (v / 16) ++ [hexDigit (v % 16)]

/-- `hex2(v)` for `v < 2^24`: at least two digits, no further leading zero (R174). -/
def hex2 (v : Nat) : List Byte :=
  if v < 16 then [hexDigit 0, hexDigit v] else hexDigits 5 v

end Sys2Proof.Machine
end

