-- ==== Sys2Proof/Machine/Serializer.lean ====
section
/-!
DEFINITION. The unit audio_container_serializer and the command SER (44_serializer.md).
-/

namespace Sys2Proof.Machine

/-- "FORM" in ASCII (R191). -/
def tagForm : List Byte := [0x46, 0x4F, 0x52, 0x4D]

/-- "VHDR" in ASCII (R191). -/
def tagVhdr : List Byte := [0x56, 0x48, 0x44, 0x52]

/-- "NAME" in ASCII (R191). -/
def tagName : List Byte := [0x4E, 0x41, 0x4D, 0x45]

/-- "BODY" in ASCII (R191). -/
def tagBody : List Byte := [0x42, 0x4F, 0x44, 0x59]

/-- `N = T + (T mod 2)`: the name's length rounded up to even (44_serializer.md preamble, R193). -/
def nameLen (name : List Byte) : Nat := name.length + name.length % 2

/-- The size field: the container's length minus 8 (R195). -/
def sizeField (name lay : List Byte) : Nat := 48 + nameLen name + lay.length

/-- `container(r, lay)` (R191), with the name tag as an argument. -/
def container (name : List Byte) (r : Word) (lay : List Byte) : List Byte :=
  tagForm ++ be32 (BitVec.ofNat 32 (sizeField name lay)) ++ Config.formType
    ++ tagVhdr ++ be32 (BitVec.ofNat 32 Config.vhdrSize) ++ be32 0 ++ be32 0 ++ be32 0
    ++ be32 r ++ be16 1 ++ be16 0
    ++ tagName ++ be32 (BitVec.ofNat 32 (nameLen name))
    ++ name ++ zeros (nameLen name - name.length)
    ++ tagBody ++ be32 (BitVec.ofNat 32 lay.length) ++ lay

/-- What SER does on a running block: the rate is the first segment's, `LAY` is taken as it is
(R196, R197). -/
def serEffect (p : Config.Params) (s : State) : State :=
  match s.seg with
  | [] => raise .badOperand 4 s
  | g :: _ =>
    if sizeField p.nameTag s.lay > 2 ^ 32 - 1 then raise .overflow 5 s
    else { s with out := container p.nameTag g.targetHz s.lay }

/-- SER (R197). -/
def execSer (s : State) : Result := unlessHalted (serEffect Config.params) s

end Sys2Proof.Machine
end

