-- ==== Sys2Proof/Machine/Stacker.lean ====
section
/-!
DEFINITION. The unit byte_alignment_stacker and its commands ALIGN, PUSH, LSINGLE, LSTACK, LEQUAL,
HEXOFF, HEXSLOT (43_alignment_stacking.md).
-/

namespace Sys2Proof.Machine

/-! ### align -/

/-- `align(n)`: the smallest multiple of 256 that is not smaller than `n` (R161); beyond `LEN_MAX` see
notes/assumptions/10.md. -/
def align (n : Nat) : Nat := 256 * ((n + 255) / 256)

/-- What ALIGN does on a running block (R162). -/
def alignEffect (s : State) : State :=
  if s.areg.toNat > Config.lenMax then raise .overflow 4 s
  else { s with areg := BitVec.ofNat 32 (align s.areg.toNat) }

/-- ALIGN (R162). -/
def execAlign (s : State) : Result := unlessHalted alignEffect s

/-! ### The segment list -/

/-- The segment made of copies of the staging state (R33, R164). -/
def stagedSegment (s : State) : Segment :=
  { label := s.label, note := s.note, targetHz := s.dstHz, data := s.q }

/-- What PUSH does on a running block (R164). -/
def pushEffect (s : State) : State :=
  if s.seg.length ≥ Config.segMax then raise .overflow 2 s
  else appendSegment (stagedSegment s) s

/-- PUSH (R164). -/
def execPush (s : State) : Result := unlessHalted pushEffect s

/-! ### The three layouts -/

/-- The payloads of the segments, in order. -/
def parts (s : State) : List (List Byte) := s.seg.map Segment.data

/-- A payload followed by zero fill up to `n` bytes (R79). -/
def padTo (n : Nat) (payload : List Byte) : List Byte := payload ++ zeros (n - payload.length)

/-- `LAY`, `OFFS` and `SLOT` are replaced whole (R73). -/
def storeLayout (lay : List Byte) (offs : List Nat) (slot : Nat) (s : State) : State :=
  { s with lay := lay, offs := offs.map (BitVec.ofNat 32), slot := BitVec.ofNat 32 slot }

/-- What LSINGLE does on a running block: exactly one segment, at offset 0 (R166). -/
def lsingleEffect (s : State) : State :=
  match s.seg with
  | [g] => storeLayout (padTo (align g.data.length) g.data) [0] 0 s
  | _ => raise .badOperand 2 s

/-- LSINGLE (R166). -/
def execLsingle (s : State) : Result := unlessHalted lsingleEffect s

/-- The sum of the padded lengths (R168). -/
def paddedTotal : List (List Byte) → Nat
  | [] => 0
  | p :: ps => align p.length + paddedTotal ps

/-- The walk of R167 from the running total `total`: the buffer and the offsets. -/
def stackedFrom (total : Nat) : List (List Byte) → List Byte × List Nat
  | [] => ([], [])
  | p :: ps =>
    let rest := stackedFrom (total + align p.length) ps
    (padTo (align p.length) p ++ rest.1, total :: rest.2)

/-- What LSTACK does on a running block (R168). -/
def lstackEffect (s : State) : State :=
  if paddedTotal (parts s) > Config.lenMax then raise .overflow 3 s
  else storeLayout (stackedFrom 0 (parts s)).1 (stackedFrom 0 (parts s)).2 0 s

/-- LSTACK (R168). -/
def execLstack (s : State) : Result := unlessHalted lstackEffect s

/-- The slot: the largest padded length, 0 for an empty list (R169, R170). -/
def slotOf : List (List Byte) → Nat
  | [] => 0
  | p :: ps => max (align p.length) (slotOf ps)

/-- The buffer of the Stacked-Equal layout: every payload filled up to the slot (R169). -/
def equalBuffer (slot : Nat) : List (List Byte) → List Byte
  | [] => []
  | p :: ps => padTo slot p ++ equalBuffer slot ps

/-- What LEQUAL does on a running block (R171). -/
def lequalEffect (s : State) : State :=
  if s.seg.length * slotOf (parts s) > Config.lenMax then raise .overflow 3 s
  else
    storeLayout (equalBuffer (slotOf (parts s)) (parts s))
      ((List.range s.seg.length).map (· * slotOf (parts s))) (slotOf (parts s)) s

/-- LEQUAL (R171). -/
def execLequal (s : State) : Result := unlessHalted lequalEffect s

/-! ### Page offsets as text -/

/-- A page offset, or the increment: the byte offset shifted right by 8 (R173). -/
def pageOf (offset : Word) : Nat := (offset >>> 8).toNat

/-- What HEXOFF does on a running block (R175). -/
def hexoffEffect (idx : Nat) (s : State) : State :=
  match s.offs[idx]? with
  | none => raise .badOperand 3 s
  | some o => { s with hex := hex2 (pageOf o) }

/-- HEXOFF (R175). -/
def execHexoff (idx : Nat) (s : State) : Result := unlessHalted (hexoffEffect idx) s

/-- What HEXSLOT does on a running block (R176). -/
def hexslotEffect (s : State) : State := { s with hex := hex2 (pageOf s.slot) }

/-- HEXSLOT (R176). -/
def execHexslot (s : State) : Result := unlessHalted hexslotEffect s

end Sys2Proof.Machine
end

