-- ==== Sys2Proof/Machine/System.lean ====
section
/-!
DEFINITION. The housekeeping commands NOP, CLEAR, RESET (45_pipeline_system.md R213 to R215).
-/

namespace Sys2Proof.Machine

/-- NOP (R213). -/
def execNop (s : State) : Result := unlessHalted (fun s => s) s

/-- CLEAR, which executes also while halted (R214). -/
def execClear (s : State) : Result := .next (clearRun s)

/-- RESET, which executes also while halted (R215). -/
def execReset (s : State) : Result := .next (resetBlock s)

end Sys2Proof.Machine
end

