-- ==== Sys2Proof/Machine/Dispatch.lean ====
section
/-!
DEFINITION. The dispatch of a decoded command to its meaning, one arm per constructor.
-/

namespace Sys2Proof.Machine

def exec (i : Instr) (s : State) : Host.Outcome State Fault Refusal :=
  match i with
  | .nop => Sys2Proof.Machine.execNop s
  | .rate => Sys2Proof.Machine.execRate s
  | .quant => Sys2Proof.Machine.execQuant s
  | .resamp => Sys2Proof.Machine.execResamp s
  | .align => Sys2Proof.Machine.execAlign s
  | .push => Sys2Proof.Machine.execPush s
  | .lsingle => Sys2Proof.Machine.execLsingle s
  | .lstack => Sys2Proof.Machine.execLstack s
  | .lequal => Sys2Proof.Machine.execLequal s
  | .hexoff idx => Sys2Proof.Machine.execHexoff idx s
  | .hexslot => Sys2Proof.Machine.execHexslot s
  | .ser => Sys2Proof.Machine.execSer s
  | .conv => Sys2Proof.Machine.execConv s
  | .clear => Sys2Proof.Machine.execClear s
  | .reset => Sys2Proof.Machine.execReset s

end Sys2Proof.Machine
end

