-- ==== Sys2Proof/Machine/Registers.lean ====
section
/-!
DEFINITION. The register map as the host reaches it by number (10_state.md R22 to R28, R37).
-/

namespace Sys2Proof.Machine

/-- The segment that `SEGSEL` selects, if there is one (R37). -/
def selected (s : State) : Option Segment := s.seg[s.segSel.toNat]?

/-- `SEGHZ` (R37). -/
def segHz (s : State) : Word := ((selected s).map Segment.targetHz).getD 0

/-- `SEGLEN`, W2A's `lengthBytes` (R33, R37). -/
def segLen (s : State) : Word :=
  ((selected s).map fun g => BitVec.ofNat 32 g.data.length).getD 0

/-- `SEGPAD`, W2A's `paddedLengthBytes` (R33, R37). -/
def segPad (s : State) : Word :=
  ((selected s).map fun g => BitVec.ofNat 32 (align g.data.length)).getD 0

/-- `SEGSTART`, W2A's `startByte` (R33, R37). -/
def segStart (s : State) : Word := (s.offs[s.segSel.toNat]?).getD 0

/-- `HostReadReg(r)` (R28): a write-only register and a number that does not exist read 0. -/
def readReg (r : Nat) (s : State) : Word :=
  match r with
  | 1 => statusWord s
  | 2 => s.fcode
  | 3 => s.fvalue
  | 4 => s.srcHz
  | 5 => s.chans
  | 6 => s.dstHz
  | 7 => s.areg
  | 8 => s.slot
  | 9 => BitVec.ofNat 32 s.seg.length
  | 10 => BitVec.ofNat 32 s.offs.length
  | 11 => s.segSel
  | 12 => segHz s
  | 13 => segLen s
  | 14 => segPad s
  | 15 => segStart s
  | 16 => BitVec.ofNat 32 Config.params.clockHz
  | 17 => BitVec.ofNat 32 Config.oversizeLimit
  | 18 => BitVec.ofNat 32 Config.pageRange
  | _ => 0

/-- `HostWriteReg(r, v)` for a register that stores (R22, R28): a write to a read-only register and
to a number that does not exist is ignored. Register 0, `CMD`, is the command port and is handled
where commands are presented. -/
def writeReg (r : Nat) (v : Word) (s : State) : State :=
  match r with
  | 4 => { s with srcHz := v }
  | 5 => { s with chans := v }
  | 6 => { s with dstHz := v }
  | 7 => { s with areg := v }
  | 11 => { s with segSel := v }
  | _ => s

end Sys2Proof.Machine
end

