-- ==== Sys2Proof/Machine/HostPort.lean ====
section
/-!
DEFINITION. The host interface: how a command word is presented and what each host operation does
(20_memory.md R62, 60_exceptions.md R235, R240).
-/

namespace Sys2Proof.Machine

/-- `HostCommand(w)`: a legal word executes its command; an illegal one raises `IllegalCommand` with
the whole word, unless the block is halted and ignores it (R93 to R95, R235, R239, R240). -/
def hostCommand (w : Word) (s : State) : Result :=
  match decode w with
  | .ok i => exec i s
  | .error _ => unlessHalted (raise .illegalCommand w) s

/-- `HostWriteReg(r, v)`: register 0 is `CMD`, so writing it presents a command (R28, R62). -/
def hostWriteReg (r : Nat) (v : Word) (s : State) : Result :=
  if r = 0 then hostCommand v s else .next (writeReg r v s)

/-- One host operation, run to its end (R62, R74), or the reset event (R260). -/
def hostOp (op : HostOp) (s : State) : Result :=
  match op with
  | .setBytes b bytes => hostSetBytes b bytes s
  | .setSamples b samples => hostSetSamples b samples s
  | .getBytes b => .next (deliver (.bytes (bytesOf b s)) s)
  | .getSamples b => .next (deliver (.samples (samplesOf b s)) s)
  | .getSeg i => hostGetSeg i s
  | .getOffs => .next (deliver (.offsets s.offs) s)
  | .writeReg r v => hostWriteReg r v s
  | .readReg r => .next (deliver (.register (readReg r s)) s)
  | .command w => hostCommand w s
  | .resetEvent => .next (resetBlock s)

/-- The host performs its next operation; with none pending the block waits (R20, R261;
notes/assumptions/2.md, 4.md). -/
def hostTurn (s : State) : Result :=
  match s.script with
  | [] => .next s
  | op :: rest => hostOp op { s with script := rest }

end Sys2Proof.Machine
end

