-- ==== Sys2Proof/Machine/Step.lean ====
section
/-!
DEFINITION. One step: the host's next operation. The block fetches nothing itself (10_state.md R25);
the host presents the commands (20_memory.md R62).
-/

namespace Sys2Proof.Machine

/-- One step of the block with its host. -/
def step (s : State) : Host.Outcome State Fault Refusal := hostTurn s

/-- The state in which the host's next operation presents the word with bits `w`
(notes/assumptions/2.md). -/
def State.withFetchWord (s : State) (nbits w : Nat) : State :=
  { s with script := .command (BitVec.ofNat 32 (w % 2 ^ nbits)) :: s.script }

end Sys2Proof.Machine
end

