-- ==== Sys2Proof/Machine/Listing.lean ====
section
/-!
DEFINITION. What the spec writes as listings: the text of a command (30_encoding.md R96), the
pseudo-operations of R98 as scripts of host operations, the conversion run of
45_pipeline_system.md R216, and what the host makes of the results (43_alignment_stacking.md R177,
R178). The block itself never reads these; a script is what the host does.
-/

namespace Sys2Proof.Machine

/-- A command's text in a listing (R96). -/
def listing : Instr → String
  | .nop => "NOP"
  | .rate => "RATE"
  | .quant => "QUANT"
  | .resamp => "RESAMP"
  | .align => "ALIGN"
  | .push => "PUSH"
  | .lsingle => "LSINGLE"
  | .lstack => "LSTACK"
  | .lequal => "LEQUAL"
  | .hexoff idx => "HEXOFF " ++ toString idx
  | .hexslot => "HEXSLOT"
  | .ser => "SER"
  | .conv => "CONV"
  | .clear => "CLEAR"
  | .reset => "RESET"

/-- The host presents a command by its word (R62, R91). -/
def present (i : Instr) : HostOp := .command (encode i)

/-- `rateForNote(note)` (R98); the result is read from `DSTHZ`. -/
def rateForNoteScript (note : List Byte) : List HostOp := [.setBytes .note note, present .rate]

/-- `quantize(samples)` (R98); the result is read from `Q`. -/
def quantizeScript (samples : List Sample) : List HostOp :=
  [.setSamples .rs samples, present .quant]

/-- `resample(input, srcHz, dstHz)` (R98); the result is read from `RS`. -/
def resampleScript (input : List Sample) (srcHz dstHz : Word) : List HostOp :=
  [.setSamples .inBuf input, .writeReg 4 srcHz, .writeReg 6 dstHz, present .resamp]

/-- `align(len)` (R98); the result is read from `AREG`. -/
def alignScript (len : Word) : List HostOp := [.writeReg 7 len, present .align]

/-- Each part is loaded into `Q` and pushed, in order (R98). -/
def pushParts (parts : List (List Byte)) : List HostOp :=
  parts.flatMap fun p => [.setBytes .q p, present .push]

/-- `buildStacked(parts)` (R98); the results are read from `LAY`, `OFFS`. -/
def buildStackedScript (parts : List (List Byte)) : List HostOp :=
  present .clear :: pushParts parts ++ [present .lstack]

/-- `buildStackedEqual(parts)` (R98); the results are read from `LAY`, `OFFS`, `SLOT`. -/
def buildStackedEqualScript (parts : List (List Byte)) : List HostOp :=
  present .clear :: pushParts parts ++ [present .lequal]

/-- The Single layout of one part (R98); the results are read from `LAY`, `OFFS`. -/
def singleScript (part : List Byte) : List HostOp :=
  present .clear :: pushParts [part] ++ [present .lsingle]

/-- `serialize(segments, layoutBuffer)` with the segments already in `SEG` (R98); the result is read
from `OUT`. -/
def serializeScript (layoutBuffer : List Byte) : List HostOp :=
  [.setBytes .lay layoutBuffer, present .ser]

/-- The page offset string of segment `i` after a layout command (R98); the result is read from
`HEX`. -/
def pageOffsetScript (i : Nat) : List HostOp := [present (.hexoff i)]

/-- One input as the decoder hands it to the host (R216, R262). -/
structure Input where
  samples : List Sample
  srcHz   : Word
  chans   : Word
  note    : List Byte
  label   : List Byte
  deriving DecidableEq, Repr

/-- Staging one input and converting it (R216, R262 step 2). -/
def convertScript (input : Input) : List HostOp :=
  [.setSamples .inBuf input.samples, .writeReg 4 input.srcHz, .writeReg 5 input.chans,
    .setBytes .note input.note, .setBytes .label input.label, present .conv]

/-- A conversion run: `CLEAR`, the inputs in the caller's order, one layout command, `SER`, and the
host reads the container (R216, R262). -/
def conversionRun (inputs : List Input) (layout : Instr) : List HostOp :=
  present .clear :: inputs.flatMap convertScript ++ [present layout, present .ser, .getBytes .out]

/-! ### What the host makes of the results (43_alignment_stacking.md R177, R178) -/

/-- The three layouts, W2A's "mode" (R178). -/
inductive Layout where
  | single | stacked | stackedEqual
  deriving DecidableEq, Repr

/-- ".8SVX" in ASCII (R177). -/
def fileSuffix : List Byte := [0x2E, 0x38, 0x53, 0x56, 0x58]

/-- The file name the host suggests, from its own base name, the `HEX` results of `HEXOFF 0` to
`HEXOFF N`, and the `HEX` result of `HEXSLOT` (R177). No rule of the block depends on it. -/
def suggestedName (layout : Layout) (base : List Byte) (offsets : List (List Byte))
    (increment : List Byte) : List Byte :=
  match layout with
  | .single => base ++ fileSuffix
  | .stacked => base ++ offsets.flatMap (fun off => 0x5F :: off) ++ fileSuffix
  | .stackedEqual => base ++ 0x5F :: increment ++ fileSuffix

/-- One entry of the host's optional report (R178). -/
structure ReportEntry where
  label        : List Byte
  note         : List Byte
  targetHz     : Word
  startByte    : Word
  hexOffset    : List Byte
  rawLength    : Nat
  paddedLength : Nat
  deriving DecidableEq, Repr

/-- The report's entries, one per segment that has a start offset, from what the block lets the host
read (R178, R37). -/
def reportEntries (s : State) : List ReportEntry :=
  (s.seg.zip s.offs).map fun (g, o) =>
    { label := g.label, note := g.note, targetHz := g.targetHz, startByte := o
      hexOffset := hex2 (pageOf o), rawLength := g.data.length
      paddedLength := align g.data.length }

end Sys2Proof.Machine
end

