-- ==== Sys2Proof/Safety.lean ====
section
/-!
DEFINITION. The terms claims are stated in: what a legal state is, what a fault leaves, what a
command may write, what a finished layout looks like. Nothing here is read by a meaning.
-/

namespace Sys2Proof.Machine

/-! ### Legal states -/

/-- Every buffer, and every buffer a segment holds a copy of, is within its limit, and the segment
table within its own (R31, R32). A buffer is a plain sequence, so equal memories are equal data
(notes/assumptions/5.md). -/
abbrev Memory.wf (s : State) : Prop :=
  s.note.length ≤ Config.stringMax ∧ s.label.length ≤ Config.stringMax
    ∧ s.inBuf.length ≤ Config.lenMax ∧ s.rs.length ≤ Config.lenMax
    ∧ s.q.length ≤ Config.lenMax ∧ s.lay.length ≤ Config.lenMax
    ∧ s.out.length ≤ Config.outMax ∧ s.hex.length ≤ Config.hexMax
    ∧ s.fnote.length ≤ Config.stringMax ∧ s.flabel.length ≤ Config.stringMax
    ∧ s.seg.length ≤ Config.segMax
    ∧ ∀ g ∈ s.seg, g.note.length ≤ Config.stringMax ∧ g.label.length ≤ Config.stringMax
        ∧ g.data.length ≤ Config.lenMax

/-- `FCODE` holds a code of R230 other than the warning's, and no record stands beside code 0
(R26, R230, R238). -/
abbrev recordLegal (s : State) : Prop :=
  s.fcode ∈ ([0, 1, 2, 3, 5, 6, 7] : List Word)
    ∧ (s.fcode = 0 → s.fvalue = 0 ∧ s.fnote = [] ∧ s.flabel = [])

/-- Offsets and the slot are multiples of 256, the first offset is 0, and there are at most as many
offsets as segments (R34, R66, R172). -/
abbrev layoutAligned (s : State) : Prop :=
  (∀ o ∈ s.offs, o.toNat % 256 = 0) ∧ s.slot.toNat % 256 = 0
    ∧ (∀ o, s.offs[0]? = some o → o = 0) ∧ s.offs.length ≤ s.seg.length

/-- The invariant of the block: it holds after reset and every step keeps it. -/
structure Inv (s : State) : Prop where
  memory : Memory.wf s
  record : recordLegal s
  layout : layoutAligned s

/-! ### Faults, and what ends a halt -/

/-- The state fault entry leaves, spelled out: the record and nothing else (R238). -/
def faulted (code v : Word) (s : State) : State :=
  { s with fcode := code, fvalue := v, fnote := s.note, flabel := s.label }

/-- The host's operation is `CLEAR`, `RESET` (through either way of presenting a command) or the
reset event: the three that end a halt and empty the segment table (R214, R215, R241, R260). -/
def endsRun (op : HostOp) : Bool :=
  op ∈ [HostOp.command 0x0E000000, .command 0x0F000000, .writeReg 0 0x0E000000,
    .writeReg 0 0x0F000000, .resetEvent]

/-! ### What a command may write -/

/-- `s` with the fault record taken from `t`. -/
def recordFrom (t s : State) : State :=
  { s with fcode := t.fcode, fvalue := t.fvalue, fnote := t.fnote, flabel := t.flabel }

/-- `s` with everything command `i` may write taken from `t`: its row of the table of R69, and the
fault record of a command that can fault. -/
def writtenFrom (i : Instr) (t s : State) : State :=
  match i with
  | .nop => s
  | .rate => recordFrom t { s with dstHz := t.dstHz }
  | .quant => { s with q := t.q }
  | .resamp => recordFrom t { s with rs := t.rs }
  | .align => recordFrom t { s with areg := t.areg }
  | .push => recordFrom t { s with seg := t.seg }
  | .lsingle => recordFrom t { s with lay := t.lay, offs := t.offs, slot := t.slot }
  | .lstack => recordFrom t { s with lay := t.lay, offs := t.offs, slot := t.slot }
  | .lequal => recordFrom t { s with lay := t.lay, offs := t.offs, slot := t.slot }
  | .hexoff _ => recordFrom t { s with hex := t.hex }
  | .hexslot => { s with hex := t.hex }
  | .ser => recordFrom t { s with out := t.out }
  | .conv => recordFrom t { s with dstHz := t.dstHz, rs := t.rs, q := t.q, seg := t.seg }
  | .clear =>
    recordFrom t
      { s with
        seg := t.seg, offs := t.offs, slot := t.slot, lay := t.lay, out := t.out, hex := t.hex }
  | .reset => { t with script := s.script, reply := s.reply }

/-- The byte buffers command `i` may write (R69), the record's two among them where it can fault. -/
def byteWrites : Instr → List ByteBuf
  | .nop => []
  | .rate => [.fnote, .flabel]
  | .quant => [.q]
  | .resamp => [.fnote, .flabel]
  | .align => [.fnote, .flabel]
  | .push => [.fnote, .flabel]
  | .lsingle => [.lay, .fnote, .flabel]
  | .lstack => [.lay, .fnote, .flabel]
  | .lequal => [.lay, .fnote, .flabel]
  | .hexoff _ => [.hex, .fnote, .flabel]
  | .hexslot => [.hex]
  | .ser => [.out, .fnote, .flabel]
  | .conv => [.q, .fnote, .flabel]
  | .clear => [.lay, .out, .hex, .fnote, .flabel]
  | .reset => [.note, .label, .q, .lay, .out, .hex, .fnote, .flabel]

/-- The sample buffers command `i` may write (R69). -/
def sampleWrites : Instr → List SampleBuf
  | .nop => []
  | .rate => []
  | .quant => []
  | .resamp => [.rs]
  | .align => []
  | .push => []
  | .lsingle => []
  | .lstack => []
  | .lequal => []
  | .hexoff _ => []
  | .hexslot => []
  | .ser => []
  | .conv => [.rs]
  | .clear => []
  | .reset => [.inBuf, .rs]

/-- `s` with every label, staged, recorded or held by a segment, made empty. -/
def eraseLabels (s : State) : State :=
  { s with
    label := [], flabel := []
    seg := s.seg.map fun g => { g with label := [] } }

/-! ### A finished layout -/

/-- The invariants of all three layouts, of segments `seg`, offsets `offs` and buffer `lay` (R172). -/
structure LaidOut (seg : List Segment) (offs : List Word) (lay : List Byte) : Prop where
  count     : offs.length = seg.length
  aligned   : ∀ o ∈ offs, o.toNat % 256 = 0
  first     : seg ≠ [] → offs[0]? = some 0
  ordered   : ∀ (i : Nat) (g : Segment) (o o' : Word), seg[i]? = some g → offs[i]? = some o →
    offs[i + 1]? = some o' → o.toNat + align g.data.length ≤ o'.toNat
  inside    : ∀ (i : Nat) (g : Segment) (o : Word), seg[i]? = some g → offs[i]? = some o →
    o.toNat + align g.data.length ≤ lay.length
  placed    : ∀ (i : Nat) (g : Segment) (o : Word) (j : Nat), seg[i]? = some g →
    offs[i]? = some o → j < g.data.length → lay[o.toNat + j]? = g.data[j]?
  filled    : ∀ k : Nat, k < lay.length →
    (∀ (i : Nat) (g : Segment) (o : Word), seg[i]? = some g → offs[i]? = some o →
      k < o.toNat ∨ o.toNat + g.data.length ≤ k) →
    lay[k]? = some 0
  multiple  : lay.length % 256 = 0

/-! ### Readings of bytes -/

/-- The number a big-endian byte sequence stands for (R63). -/
def beValue (bytes : List Byte) : Nat := bytes.foldl (fun acc b => 256 * acc + b.toNat) 0

/-- The value of an upper-case hexadecimal digit in ASCII, if the byte is one (R174). -/
def digitValue (b : Byte) : Option Nat :=
  if 0x30 ≤ b.toNat ∧ b.toNat ≤ 0x39 then some (b.toNat - 0x30)
  else if 0x41 ≤ b.toNat ∧ b.toNat ≤ 0x46 then some (b.toNat - 0x41 + 10)
  else none

/-- The number a hexadecimal text stands for, if every byte of it is a digit (R174). -/
def hexValue (text : List Byte) : Option Nat :=
  text.foldl (fun acc b => acc.bind fun n => (digitValue b).map fun d => 16 * n + d) (some 0)

/-- `ceil(a / b)` for `b >= 1`. -/
def ceilDiv (a b : Nat) : Nat := (a + b - 1) / b

end Sys2Proof.Machine
end

