-- ==== Sys2Proof/Certificates/Slice0/Obligations.lean ====
section
/-!
DEFINITION. The statements about the machine that the provers settle. Each docstring names the rules
it is written from; what is the model's own choice is said there with its log entry.
-/

open Sys2Proof Sys2Proof.Machine

/-! ### Decoding -/

/-- Every well-formed command decodes from its own word, with every index of `HEXOFF`
(30_encoding.md R90 to R92, R99). -/
def Obligations.DecodeEncodeRoundTrip : Prop :=
  ∀ i : Instr, i.wellFormed = true → decode (encode i) = .ok i

/-- A word that decodes to a command is that command's word, and the command is well formed: no word
is a second spelling (R91, R95). -/
def Obligations.EncodeDecodeRoundTrip : Prop :=
  ∀ (w : Word) (i : Instr), decode w = .ok i → i.wellFormed = true ∧ encode i = w

/-- `decode` is the function of R99: opcode 0x09 gives `HEXOFF(arg)`, the fourteen other opcodes give
their command when `arg = 0`, and every other word is illegal. -/
def Obligations.DecodeVerdicts : Prop :=
  ∀ (w : Word) (op arg : Nat), op = w.toNat / 2 ^ 24 → arg = w.toNat % 2 ^ 24 →
    (op = 0x09 → decode w = .ok (.hexoff arg)) ∧
    (∀ row ∈ [(0x00, Instr.nop), (0x01, .rate), (0x02, .quant), (0x03, .resamp), (0x04, .align),
        (0x05, .push), (0x06, .lsingle), (0x07, .lstack), (0x08, .lequal), (0x0A, .hexslot),
        (0x0B, .ser), (0x0C, .conv), (0x0E, .clear), (0x0F, .reset)],
      op = row.1 → arg = 0 → decode w = .ok row.2) ∧
    ((op = 0x0D ∨ 0x10 ≤ op) → decode w = .error .reservedOpcode) ∧
    ((op ≤ 0x0F ∧ op ≠ 0x09 ∧ op ≠ 0x0D ∧ arg ≠ 0) → decode w = .error .nonzeroArg)

/-- A few words of the opcode map, written out (R91, R93, R94). -/
def Obligations.DecodedWords : Prop :=
  decode 0x01000000 = .ok .rate ∧ decode 0x08000000 = .ok .lequal ∧
  decode 0x09000002 = .ok (.hexoff 2) ∧ decode 0x0C000000 = .ok .conv ∧
  decode 0x0E000000 = .ok .clear ∧ decode 0x0D000000 = .error .reservedOpcode ∧
  decode 0x01000001 = .error .nonzeroArg

/-! ### The step -/

/-- A step takes the next operation off the host's script and performs it; a word that decodes to a
command, presented by `HostCommand` or by a write to register 0, is run as that command (R62, R28;
the script is the model's, notes/assumptions/2.md). -/
def Obligations.StepRunsDecodedCommand : Prop :=
  ∀ (s : State) (op : HostOp) (rest : List HostOp), s.script = op :: rest →
    step s = hostOp op { s with script := rest } ∧
    ∀ (w : Word) (i : Instr), (op = .command w ∨ op = .writeReg 0 w) → decode w = .ok i →
      step s = exec i { s with script := rest }

/-- An illegal word presented to a running block executes nothing and leaves `IllegalCommand` with
the whole word (R235). -/
def Obligations.IllegalWordFaults : Prop :=
  ∀ (s : State) (w : Word) (why : IllegalWord), s.fcode = 0 → decode w = .error why →
    hostCommand w s = .next (faulted 5 w s)

/-- A halted block ignores every word but `0E000000` and `0F000000`, legal or not: not even the fault
record changes; and nothing else the host does, but the reset event, ends the halt or changes the
record (R239). -/
def Obligations.HaltedBlockIgnoresWords : Prop :=
  ∀ s : State, s.fcode ≠ 0 →
    (∀ w : Word, w ≠ 0x0E000000 → w ≠ 0x0F000000 → hostCommand w s = .next s) ∧
    ∀ (op : HostOp) (t : State), endsRun op = false → hostOp op s = .next t →
      t.fcode = s.fcode ∧ t.fvalue = s.fvalue ∧ t.fnote = s.fnote ∧ t.flabel = s.flabel

/-- With no host operation pending the block waits, unchanged (R20, R261; that a step is then taken
at all is the model's choice, notes/assumptions/4.md). -/
def Obligations.IdleBlockWaits : Prop :=
  ∀ s : State, s.script = [] → step s = .next s

/-- The machine stops only where the host asks for what the interface does not have: `HostSet` on a
read-only buffer or beyond a limit, `HostGetSeg` of an absent segment (R31, R62; that the model stops
there is notes/assumptions/6.md and 7.md). -/
def Obligations.StepStopsOnlyAtHostMisuse : Prop :=
  ∀ s : State, (∃ t, step s = .next t) ∨
    (∃ b bytes rest, s.script = .setBytes b bytes :: rest ∧
      ((hostWritable b = false ∧ step s = .refused .hostSetReadOnly) ∨
        (byteLimit b < bytes.length ∧ step s = .refused .hostSetTooLong))) ∨
    (∃ b xs rest, s.script = .setSamples b xs :: rest ∧ 2 ^ 32 - 256 < xs.length ∧
      step s = .refused .hostSetTooLong) ∨
    (∃ i rest, s.script = .getSeg i :: rest ∧ s.seg.length ≤ i ∧ step s = .fault .noSuchSegment)

/-! ### Every command -/

/-- Every command ends in a next state, whatever the state and the operand (R271). -/
def Obligations.EveryCommandEnds : Prop :=
  ∀ (i : Instr) (s : State), ∃ t, exec i s = .next t

/-- A command writes its row of the table of R69 and, when it can fault, the fault record: every
other register, flag source, list and buffer keeps its value, and every read of a buffer outside the
row gives what it gave before. -/
def Obligations.CommandWritesOnlyItsRow : Prop :=
  ∀ (i : Instr) (s t : State), exec i s = .next t →
    t = writtenFrom i t s ∧
    (∀ b : ByteBuf, b ∉ byteWrites i → ∀ a n, memRead (bytesOf b t) a n = memRead (bytesOf b s) a n) ∧
    (∀ b : SampleBuf, b ∉ sampleWrites i →
      ∀ a n, memRead (samplesOf b t) a n = memRead (samplesOf b s) a n)

/-- A command that faults writes the fault record and nothing else, with copies of `NOTE` and `LABEL`
(R238, R70). -/
def Obligations.FaultWritesOnlyTheRecord : Prop :=
  ∀ (i : Instr) (s t : State), s.fcode = 0 → exec i s = .next t → t.fcode ≠ 0 →
    t = faulted t.fcode t.fvalue s

/-- Every command but `PUSH` and `CONV`, executed twice in a row, leaves what the first left (R71). -/
def Obligations.CommandsIdempotent : Prop :=
  ∀ (i : Instr) (s t : State), i ≠ .push → i ≠ .conv → exec i s = .next t → exec i t = .next t

/-- What a command does to the block does not depend on what the host plans or was last given, and
leaves both alone (R2, R25). -/
def Obligations.CommandsIgnoreHostSide : Prop :=
  ∀ (i : Instr) (s t : State) (script : List HostOp) (reply : Option Reply), exec i s = .next t →
    exec i { s with script := script, reply := reply }
      = .next { t with script := script, reply := reply }

/-- Labels take part in no computation: erasing them all before a command or after it is the same
(R33, R2). -/
def Obligations.LabelsNeverInfluence : Prop :=
  ∀ (i : Instr) (s t : State), exec i s = .next t →
    exec i (eraseLabels s) = .next (eraseLabels t)

/-! ### RATE -/

/-- `rate(k)` is defined exactly on the table's keys, whole and byte for byte, and is the floor of
the clock by the matching period (R120, R121). -/
def Obligations.RateDefinedOnTableKeys : Prop :=
  (∀ e ∈ Config.params.noteRom, ∃ r, rateOf Config.params e.key = some r ∧
    r.toNat = Config.params.clockHz / e.period) ∧
  (∀ k, (∀ e ∈ Config.params.noteRom, e.key ≠ k) → rateOf Config.params k = none)

/-- `RATE` on a running block: with a key of the table in `NOTE` it writes the clock divided by the
period to `DSTHZ` and nothing else; with any other string it records `InvalidNote` and the string's
length (R122, R121, R231). -/
def Obligations.RateLooksUpTheNote : Prop :=
  decode 0x01000000 = .ok .rate ∧
  ∀ s : State, s.fcode = 0 →
    (∀ e ∈ Config.params.noteRom, e.key = s.note →
      ∃ r : Word, r.toNat = Config.params.clockHz / e.period ∧
        exec .rate s = .next { s with dstHz := r }) ∧
    ((∀ e ∈ Config.params.noteRom, e.key ≠ s.note) →
      exec .rate s = .next (faulted 1 (BitVec.ofNat 32 s.note.length) s))

/-- The one rate W2A prints: "C-2" is 8287 Hz in every implementation (R7). -/
def Obligations.NoteC2Is8287 : Prop :=
  ∀ s : State, s.fcode = 0 → s.note = [0x43, 0x2D, 0x32] →
    exec .rate s = .next { s with dstHz := 8287 }

/-! ### QUANT -/

/-- `QUANT` replaces `Q` by `(s + 32768) >> 8` of every sample of `RS`, one byte per sample in order,
and changes nothing else (R130 to R132). -/
def Obligations.QuantBiasesAndShifts : Prop :=
  decode 0x02000000 = .ok .quant ∧
  ∀ s : State, s.fcode = 0 →
    ∃ bytes : List Byte, exec .quant s = .next { s with q := bytes } ∧
      bytes.length = s.rs.length ∧
      ∀ (k : Nat) (x : Sample), s.rs[k]? = some x →
        ∃ b, bytes[k]? = some b ∧ (b.toNat : Int) = (x.toInt + 32768) / 256

/-- The quantized byte is the sample's high byte with its top bit inverted (R133). -/
def Obligations.QuantIsHighByteInverted : Prop :=
  ∀ x : Sample, quant x = x.extractLsb' 8 8 ^^^ 0x80

/-! ### RESAMP -/

/-- `RESAMP` on a running block: source rate 0 faults before anything else; equal rates copy `IN` to
`RS` whatever its length; a result longer than `LEN_MAX` faults; otherwise `RS` is `zoh` of `IN`
(R145, R141, R150, R237). -/
def Obligations.ResampChecksThenResamples : Prop :=
  decode 0x03000000 = .ok .resamp ∧
  ∀ (s : State) (len : Nat), s.fcode = 0 →
    len = (2 * s.inBuf.length * s.dstHz.toNat + s.srcHz.toNat) / (2 * s.srcHz.toNat) →
    (s.srcHz = 0 → exec .resamp s = .next (faulted 6 1 s)) ∧
    (s.srcHz ≠ 0 → s.srcHz = s.dstHz → exec .resamp s = .next { s with rs := s.inBuf }) ∧
    (s.srcHz ≠ 0 → s.srcHz ≠ s.dstHz → 2 ^ 32 - 256 < len →
      exec .resamp s = .next (faulted 7 1 s)) ∧
    (s.srcHz ≠ 0 → s.srcHz ≠ s.dstHz → len ≤ 2 ^ 32 - 256 →
      exec .resamp s = .next { s with rs := zoh s.inBuf s.srcHz.toNat s.dstHz.toNat })

/-- With different rates the loop gives `outlen` samples, sample `n` being `x[(n*s) div d]`, an index
that lies inside the input, so the clamp never changes an emitted sample (R142, R144, R148). -/
def Obligations.ZohClosedForm : Prop :=
  ∀ (x : List Sample) (src dst len : Nat), 1 ≤ src → src ≠ dst →
    len = (2 * x.length * dst + src) / (2 * src) →
    (zoh x src dst).length = len ∧
    ∀ n, n < len → n * src / dst < x.length ∧ (zoh x src dst)[n]? = x[n * src / dst]?

/-- Every sample the resampler gives is a sample of its input, on the fast path and in the loop
(R140). -/
def Obligations.ZohHoldsInputSamples : Prop :=
  ∀ (x : List Sample) (src dst : Nat), 1 ≤ src → ∀ v ∈ zoh x src dst, v ∈ x

/-- The accumulator step: after adding `src` to an accumulator below `dst`, the inner loop leaves the
remainder, moves the cursor on by the quotient, clamped, and all of it fits 33 bits (R143, R147). -/
def Obligations.AccumulatorStep : Prop :=
  ∀ (src dst last acc idx : Nat), src < 2 ^ 32 → dst < 2 ^ 32 → acc < dst → idx ≤ last →
    acc + src < 2 ^ 33 ∧
    advance dst last (acc + src) (acc + src) idx
      = ((acc + src) % dst, min (idx + (acc + src) / dst) last)

/-- For equal rates the general path gives the input too, so the fast path is no other function
(R152). -/
def Obligations.FastPathAgreesWithLoop : Prop :=
  ∀ (x : List Sample) (r : Nat), 1 ≤ r →
    outlen x.length r r = x.length ∧ zohLoop x r r (outlen x.length r r) 0 0 = x

/-- The impulse law: upsampling an input with one non-zero sample gives one unbroken run of it, cut
only by the output length, and an impulse before the last index runs for `floor(d/s)` or
`ceil(d/s)` samples (R151). -/
def Obligations.ImpulseLaw : Prop :=
  ∀ (x : List Sample) (src dst j len : Nat) (v : Sample), 1 ≤ src → src < dst →
    len = (2 * x.length * dst + src) / (2 * src) →
    v ≠ 0 → x[j]? = some v → (∀ k y, x[k]? = some y → k ≠ j → y = 0) →
    (zoh x src dst).length = len ∧
    (∀ n, n < len → (zoh x src dst)[n]? = some
      (if ceilDiv (j * dst) src ≤ n ∧ n < ceilDiv ((j + 1) * dst) src then v else 0)) ∧
    (j + 2 ≤ x.length → ceilDiv ((j + 1) * dst) src ≤ len ∧
      (ceilDiv ((j + 1) * dst) src - ceilDiv (j * dst) src = dst / src ∨
        ceilDiv ((j + 1) * dst) src - ceilDiv (j * dst) src = ceilDiv dst src))

/-! ### ALIGN, PUSH -/

/-- `ALIGN` adds 255 and clears the low eight bits, or faults above `LEN_MAX` and keeps `AREG`
(R161, R162). -/
def Obligations.AlignRoundsUp : Prop :=
  decode 0x04000000 = .ok .align ∧
  ∀ s : State, s.fcode = 0 →
    (s.areg.toNat ≤ 0xFFFFFF00 →
      exec .align s = .next { s with areg := (s.areg + 255) &&& 0xFFFFFF00 }) ∧
    (0xFFFFFF00 < s.areg.toNat → exec .align s = .next (faulted 7 4 s))

/-- The laws of `align`, up to `LEN_MAX` (R163). -/
def Obligations.AlignLaws : Prop :=
  ∀ n p : Nat, n ≤ 2 ^ 32 - 256 → p ≤ 2 ^ 32 - 256 →
    align n % 256 = 0 ∧ n ≤ align n ∧ align n - n ≤ 255 ∧
    (align n = n ↔ n % 256 = 0) ∧ align (align n) = align n ∧ (n ≤ p → align n ≤ align p)

/-- `PUSH` appends one segment of copies of the staging state, which shows as `WARN` when the payload
is longer than 65535 bytes, or faults when the table is full (R164). -/
def Obligations.PushAppendsStagedSegment : Prop :=
  decode 0x05000000 = .ok .push ∧
  ∀ s : State, s.fcode = 0 →
    (s.seg.length < Config.segMax → ∃ t, exec .push s = .next t ∧
      t = { s with
            seg := s.seg ++ [{ label := s.label, note := s.note, targetHz := s.dstHz, data := s.q }] } ∧
      (65535 < s.q.length → warn t = true)) ∧
    (Config.segMax ≤ s.seg.length → exec .push s = .next (faulted 7 2 s))

/-! ### The layouts -/

/-- `LSINGLE` lays one segment at offset 0, filled with zeros to the next multiple of 256, and faults
on any other segment count (R166). -/
def Obligations.LsingleLaysOutOneSegment : Prop :=
  decode 0x06000000 = .ok .lsingle ∧
  ∀ s : State, s.fcode = 0 →
    (∀ g, s.seg = [g] → exec .lsingle s = .next
      { s with
        lay := g.data ++ List.replicate ((256 - g.data.length % 256) % 256) 0
        offs := [0], slot := 0 }) ∧
    (s.seg.length ≠ 1 → exec .lsingle s = .next (faulted 6 2 s))

/-- `LSTACK` lays the segments back to back, each filled with zeros to a multiple of 256; offset `i`
is the sum of the padded lengths before it; it faults on a layout longer than `LEN_MAX` (R167,
R168). -/
def Obligations.LstackLaysOutBackToBack : Prop :=
  decode 0x07000000 = .ok .lstack ∧
  ∀ (s : State) (total : Nat), s.fcode = 0 →
    total = (s.seg.map fun g => align g.data.length).sum →
    (total ≤ 2 ^ 32 - 256 → exec .lstack s = .next
      { s with
        lay := s.seg.flatMap fun g =>
          g.data ++ List.replicate ((256 - g.data.length % 256) % 256) 0
        offs := (List.range s.seg.length).map fun i =>
          BitVec.ofNat 32 ((s.seg.take i).map fun g => align g.data.length).sum
        slot := 0 }) ∧
    (2 ^ 32 - 256 < total → exec .lstack s = .next (faulted 7 3 s))

/-- `LEQUAL` gives every segment a slot as long as the largest padded length, filled with zeros;
segment `i` starts at `i * slot`; it faults on a layout longer than `LEN_MAX` (R169 to R171). -/
def Obligations.LequalLaysOutEqualSlots : Prop :=
  decode 0x08000000 = .ok .lequal ∧
  ∀ (s : State) (slot : Nat), s.fcode = 0 →
    slot = (s.seg.map fun g => align g.data.length).foldr max 0 →
    (s.seg.length * slot ≤ 2 ^ 32 - 256 → exec .lequal s = .next
      { s with
        lay := s.seg.flatMap fun g => g.data ++ List.replicate (slot - g.data.length) 0
        offs := (List.range s.seg.length).map fun i => BitVec.ofNat 32 (i * slot)
        slot := BitVec.ofNat 32 slot }) ∧
    (2 ^ 32 - 256 < s.seg.length * slot → exec .lequal s = .next (faulted 7 3 s))

/-- The invariants of all three layouts: one aligned offset per segment, the first 0, no overlap,
order kept, every payload byte in place, every other byte 0, a length that is a multiple of 256
(R66, R79, R172). -/
def Obligations.LayoutInvariants : Prop :=
  ∀ (i : Instr) (s t : State), i = .lsingle ∨ i = .lstack ∨ i = .lequal → s.fcode = 0 →
    exec i s = .next t → t.fcode = 0 → t.seg = s.seg ∧ LaidOut s.seg t.offs t.lay

/-! ### HEXOFF, HEXSLOT -/

/-- `HEXOFF idx` writes the page offset of the last layout's entry `idx` as text, or faults where
there is none; `idx` is the word's low 24 bits (R173, R175, R92). -/
def Obligations.HexoffWritesPageOffset : Prop :=
  (∀ idx, idx < 2 ^ 24 → decode (BitVec.ofNat 32 (0x09000000 + idx)) = .ok (.hexoff idx)) ∧
  ∀ (s : State) (idx : Nat), s.fcode = 0 →
    (∀ o, s.offs[idx]? = some o →
      exec (.hexoff idx) s = .next { s with hex := hex2 (o.toNat / 256) }) ∧
    (s.offs.length ≤ idx → exec (.hexoff idx) s = .next (faulted 6 3 s))

/-- `HEXSLOT` writes the increment as text (R173, R176). -/
def Obligations.HexslotWritesIncrement : Prop :=
  decode 0x0A000000 = .ok .hexslot ∧
  ∀ s : State, s.fcode = 0 → exec .hexslot s = .next { s with hex := hex2 (s.slot.toNat / 256) }

/-- `hex2(v)` is upper-case hexadecimal for `v`, at least two digits and at most six, with no leading
zero beyond the second digit (R174). -/
def Obligations.HexTextIsCanonical : Prop :=
  ∀ v : Nat, v < 2 ^ 24 →
    hexValue (hex2 v) = some v ∧ 2 ≤ (hex2 v).length ∧ (hex2 v).length ≤ 6 ∧
    (2 < (hex2 v).length → (hex2 v)[0]? ≠ some 0x30)

/-! ### SER -/

/-- The container, field by field: offsets, sizes, big-endian values, the fixed fields, the even name
and the payload as it is, for any name tag (R191 to R194, R199). -/
def Obligations.ContainerFields : Prop :=
  ∀ (name lay out : List Byte) (r : Word) (n m : Nat),
    n = name.length + name.length % 2 → m = lay.length → 48 + n + m ≤ 2 ^ 32 - 1 →
    out = container name r lay →
    out.length = 56 + n + m ∧
    (out.drop 0).take 4 = [0x46, 0x4F, 0x52, 0x4D] ∧
    beValue ((out.drop 4).take 4) = 48 + n + m ∧
    (out.drop 8).take 4 = [0x38, 0x53, 0x56, 0x58] ∧
    (out.drop 12).take 4 = [0x56, 0x48, 0x44, 0x52] ∧
    (out.drop 16).take 16 = [0, 0, 0, 20, 0, 0, 0, 0, 0, 0, 0, 0, 0, 0, 0, 0] ∧
    beValue ((out.drop 32).take 4) = r.toNat ∧
    (out.drop 36).take 4 = [0, 1, 0, 0] ∧
    (out.drop 40).take 4 = [0x4E, 0x41, 0x4D, 0x45] ∧
    beValue ((out.drop 44).take 4) = n ∧
    (out.drop 48).take n = name ++ List.replicate (n - name.length) 0 ∧
    (out.drop (48 + n)).take 4 = [0x42, 0x4F, 0x44, 0x59] ∧
    beValue ((out.drop (52 + n)).take 4) = m ∧
    out.drop (56 + n) = lay

/-- `SER` on a running block: no segment faults; a size field that would not fit faults; otherwise
`OUT` is the container of the first segment's rate and of `LAY` as it is (R197, R195, R196). -/
def Obligations.SerChecksThenSerializes : Prop :=
  decode 0x0B000000 = .ok .ser ∧
  ∀ (s : State) (n : Nat), s.fcode = 0 →
    n = Config.params.nameTag.length + Config.params.nameTag.length % 2 →
    (s.seg = [] → exec .ser s = .next (faulted 6 4 s)) ∧
    (∀ (g : Segment) (rest : List Segment), s.seg = g :: rest →
      (2 ^ 32 - 1 < 48 + n + s.lay.length → exec .ser s = .next (faulted 7 5 s)) ∧
      (48 + n + s.lay.length ≤ 2 ^ 32 - 1 → exec .ser s = .next
        { s with out := container Config.params.nameTag g.targetHz s.lay }))

/-- Nothing of the segments but the first one's rate reaches the container: two running blocks that
agree on it and on `LAY`, with room in the size field, write equal containers (R196). -/
def Obligations.ContainerSeesOnlyFirstRate : Prop :=
  ∀ (s u : State) (g h : Segment) (gs hs : List Segment), s.fcode = 0 → u.fcode = 0 →
    s.seg = g :: gs → u.seg = h :: hs → g.targetHz = h.targetHz → s.lay = u.lay →
    s.lay.length ≤ 2 ^ 32 - 1 - 302 →
    ∃ out : List Byte, exec .ser s = .next { s with out := out } ∧
      exec .ser u = .next { u with out := out }

/-! ### CONV -/

/-- `CONV` on a running block makes its checks in the order of R211, each reached only when the ones
before it pass, and writes the fault record alone where one fails; when all pass it writes the rate,
the resampled samples, their bytes and one new segment, and nothing else (R210, R211). -/
def Obligations.ConvChecksThenConverts : Prop :=
  decode 0x0C000000 = .ok .conv ∧
  ∀ s : State, s.fcode = 0 →
    (s.chans ≠ 1 → exec .conv s = .next (faulted 2 s.chans s)) ∧
    (s.chans = 1 → s.inBuf = [] → exec .conv s = .next (faulted 3 0 s)) ∧
    (s.chans = 1 → s.inBuf ≠ [] → (∀ e ∈ Config.params.noteRom, e.key ≠ s.note) →
      exec .conv s = .next (faulted 1 (BitVec.ofNat 32 s.note.length) s)) ∧
    ∀ (e : Config.NoteEntry) (d : Word) (len : Nat), s.chans = 1 → s.inBuf ≠ [] →
      e ∈ Config.params.noteRom → e.key = s.note → d.toNat = Config.params.clockHz / e.period →
      len = (2 * s.inBuf.length * d.toNat + s.srcHz.toNat) / (2 * s.srcHz.toNat) →
      (s.srcHz = 0 → exec .conv s = .next (faulted 6 1 s)) ∧
      (s.srcHz ≠ 0 → s.srcHz ≠ d → 2 ^ 32 - 256 < len →
        exec .conv s = .next (faulted 7 1 s)) ∧
      (s.srcHz ≠ 0 → (s.srcHz = d ∨ len ≤ 2 ^ 32 - 256) → Config.segMax ≤ s.seg.length →
        exec .conv s = .next (faulted 7 2 s)) ∧
      (s.srcHz ≠ 0 → (s.srcHz = d ∨ len ≤ 2 ^ 32 - 256) → s.seg.length < Config.segMax →
        ∃ t, exec .conv s = .next t ∧
          t = { s with
                dstHz := d
                rs := zoh s.inBuf s.srcHz.toNat d.toNat
                q := (zoh s.inBuf s.srcHz.toNat d.toNat).map quant
                seg := s.seg ++
                  [{ label := s.label, note := s.note, targetHz := d,
                     data := (zoh s.inBuf s.srcHz.toNat d.toNat).map quant }] } ∧
          (65535 < t.q.length → warn t = true))

/-- A successful `CONV` is the same as `RATE`, `RESAMP`, `QUANT`, `PUSH` in this order from the same
state (R212, R1). -/
def Obligations.ConvIsTheFourUnits : Prop :=
  ∀ s t : State, s.fcode = 0 → exec .conv s = .next t → t.fcode = 0 →
    ∃ a b c, exec .rate s = .next a ∧ exec .resamp a = .next b ∧ exec .quant b = .next c ∧
      exec .push c = .next t

/-! ### NOP, CLEAR, RESET, and the state after reset -/

/-- `NOP` changes nothing, on a running and on a halted block (R213). -/
def Obligations.NopChangesNothing : Prop :=
  decode 0x00000000 = .ok .nop ∧ ∀ s : State, exec .nop s = .next s

/-- `CLEAR` empties the record, the segments and the run's products and keeps the staging state, also
while halted; both flags are then 0 (R214). -/
def Obligations.ClearStartsRun : Prop :=
  decode 0x0E000000 = .ok .clear ∧
  ∀ s : State, ∃ t, exec .clear s = .next t ∧
    t = { s with
          fcode := 0, fvalue := 0, fnote := [], flabel := [], seg := [], offs := [], slot := 0
          lay := [], out := [], hex := [] } ∧
    halted t = false ∧ warn t = false

/-- `RESET`, also while halted, and the reset event give every register 0 and empty every buffer and
list (R50, R215, R260). -/
def Obligations.ResetGivesResetValues : Prop :=
  decode 0x0F000000 = .ok .reset ∧
  ∀ s : State, hostOp .resetEvent s = exec .reset s ∧
    ∃ t, exec .reset s = .next t ∧
      t = { srcHz := 0, chans := 0, dstHz := 0, areg := 0, slot := 0, segSel := 0, fcode := 0
            fvalue := 0, note := [], label := [], inBuf := [], rs := [], q := [], lay := []
            out := [], hex := [], fnote := [], flabel := [], seg := [], offs := []
            script := t.script, reply := t.reply } ∧
      halted t = false ∧ warn t = false

/-- After reset every register below 16 reads 0, so `STATUS`, `NSEG`, `NOFF` and the segment window
do, and every buffer and both lists are empty (R50). -/
def Obligations.ResetStateReadsZero : Prop :=
  (∀ r < 16, readReg r State.reset = 0) ∧ (∀ b, bytesOf b State.reset = []) ∧
  (∀ b, samplesOf b State.reset = []) ∧ State.reset.seg = [] ∧ State.reset.offs = []

/-! ### Flags, registers, host operations -/

/-- `STATUS`: bit 0 is `HALT`, bit 1 is `WARN`, the rest 0; each flag is its function of the state,
and a host write is ignored (R24, R29, R165). -/
def Obligations.StatusBits : Prop :=
  ∀ s : State, readReg 1 s = statusWord s ∧
    ((statusWord s).getLsbD 0 = true ↔ s.fcode ≠ 0) ∧
    ((statusWord s).getLsbD 1 = true ↔ ∃ g ∈ s.seg, 65535 < g.data.length) ∧
    (∀ k, 2 ≤ k → (statusWord s).getLsbD k = false) ∧
    ∀ v, hostOp (.writeReg 1 v) s = .next s

/-- The register map as the host reads it: the write-only command port and numbers that do not exist
read 0, the stored registers read their value, `NSEG` and `NOFF` the lengths of the two lists, and
three registers the constants (R23, R27, R28). -/
def Obligations.RegisterMapReads : Prop :=
  ∀ s : State,
    readReg 0 s = 0 ∧ readReg 1 s = statusWord s ∧ readReg 2 s = s.fcode ∧ readReg 3 s = s.fvalue ∧
    readReg 4 s = s.srcHz ∧ readReg 5 s = s.chans ∧ readReg 6 s = s.dstHz ∧ readReg 7 s = s.areg ∧
    readReg 8 s = s.slot ∧ readReg 11 s = s.segSel ∧
    (Inv s → (readReg 9 s).toNat = s.seg.length ∧ (readReg 10 s).toNat = s.offs.length) ∧
    (readReg 16 s).toNat = Config.params.clockHz ∧ readReg 17 s = 65535 ∧ readReg 18 s = 65280 ∧
    ∀ r, 19 ≤ r → readReg r s = 0

/-- The segment window: `SEGHZ`, `SEGLEN`, `SEGPAD`, `SEGSTART` of the selected segment, 0 where there
is none (R37). -/
def Obligations.SegmentWindow : Prop :=
  ∀ s : State, Memory.wf s →
    (∀ g, s.seg[s.segSel.toNat]? = some g →
      readReg 12 s = g.targetHz ∧ (readReg 13 s).toNat = g.data.length ∧
      (readReg 14 s).toNat = align g.data.length) ∧
    (s.seg.length ≤ s.segSel.toNat → readReg 12 s = 0 ∧ readReg 13 s = 0 ∧ readReg 14 s = 0) ∧
    (∀ o, s.offs[s.segSel.toNat]? = some o → readReg 15 s = o) ∧
    (s.offs.length ≤ s.segSel.toNat → readReg 15 s = 0)

/-- A host write to one of the five writable registers stores exactly the value, also while halted,
and reads back; a write to a read-only or absent register is ignored (R22, R24, R28). -/
def Obligations.HostRegisterWrites : Prop :=
  ∀ (s : State) (r : Nat) (v : Word), r ≠ 0 →
    ∃ t, hostOp (.writeReg r v) s = .next t ∧
      (r ∈ [4, 5, 6, 7, 11] → readReg r t = v ∧
        ∀ k, k < 12 → k ≠ r → readReg k t = readReg k s) ∧
      (r ∉ [4, 5, 6, 7, 11] → t = s) ∧
      t = { s with
            srcHz := t.srcHz, chans := t.chans, dstHz := t.dstHz, areg := t.areg
            segSel := t.segSel }

/-- A reading host operation returns what R62 and R36 name (the whole content of the buffer, the
segment's stored attributes, the list of offsets, the register's value) and changes nothing of the
block; reading a second time returns the same (R71). The field that holds what was returned is the
model's (notes/assumptions/3.md). -/
def Obligations.HostReadsChangeNothing : Prop :=
  ∀ s : State,
    (bytesOf .note s = s.note ∧ bytesOf .label s = s.label ∧ bytesOf .q s = s.q ∧
      bytesOf .lay s = s.lay ∧ bytesOf .out s = s.out ∧ bytesOf .hex s = s.hex ∧
      bytesOf .fnote s = s.fnote ∧ bytesOf .flabel s = s.flabel ∧
      samplesOf .inBuf s = s.inBuf ∧ samplesOf .rs s = s.rs) ∧
    ∀ (op : HostOp) (v : Reply),
      ((∃ b, op = .getBytes b ∧ v = .bytes (bytesOf b s)) ∨
        (∃ b, op = .getSamples b ∧ v = .samples (samplesOf b s)) ∨
        (∃ i g, op = .getSeg i ∧ s.seg[i]? = some g ∧ v = .segment g) ∨
        (op = .getOffs ∧ v = .offsets s.offs) ∨
        (∃ r, op = .readReg r ∧ v = .register (readReg r s))) →
      ∃ t, hostOp op s = .next t ∧ t = { s with reply := some v } ∧ hostOp op t = .next t

/-- `HostSet` on a host-writable buffer within its limit replaces that buffer whole and leaves every
other buffer, and everything else, as it was (R30, R31, R62). -/
def Obligations.HostSetReplacesOneBuffer : Prop :=
  (∀ (s : State) (b : ByteBuf) (bytes : List Byte), b ∈ [.note, .label, .q, .lay] →
    bytes.length ≤ byteLimit b →
    ∃ t, hostOp (.setBytes b bytes) s = .next t ∧ bytesOf b t = bytes ∧
      (∀ b', b' ≠ b → bytesOf b' t = bytesOf b' s) ∧
      t = { s with note := t.note, label := t.label, q := t.q, lay := t.lay }) ∧
  (∀ (s : State) (b : SampleBuf) (xs : List Sample), xs.length ≤ 2 ^ 32 - 256 →
    ∃ t, hostOp (.setSamples b xs) s = .next t ∧ samplesOf b t = xs ∧
      (∀ b', b' ≠ b → samplesOf b' t = samplesOf b' s) ∧
      t = { s with inBuf := t.inBuf, rs := t.rs })

/-- At the upstream boundary sample `k` is the little-endian pair of bytes `2k` and `2k + 1`, low byte
first, read as two's complement (R64). -/
def Obligations.LittleEndianSamples : Prop :=
  ∀ (bytes : List Byte) (k : Nat) (b0 b1 : Byte),
    bytes[2 * k]? = some b0 → bytes[2 * k + 1]? = some b1 →
    ∃ x : Sample, (samplesOfBytes bytes)[k]? = some x ∧
      x.toInt = if b0.toNat + 256 * b1.toNat < 32768 then (b0.toNat + 256 * b1.toNat : Int)
        else (b0.toNat + 256 * b1.toNat : Int) - 65536

/-! ### Host scripts -/

/-- The scripts of four W2A contracts, run from a running block, leave the contract's result where the
table of R98 says it is read. -/
def Obligations.UnitContractScripts : Prop :=
  ∀ s : State, s.fcode = 0 →
    (∀ e ∈ Config.params.noteRom, ∃ t,
      core.run 2 { s with script := rateForNoteScript e.key } = .next t ∧
      t.dstHz.toNat = Config.params.clockHz / e.period) ∧
    (∀ samples : List Sample, samples.length ≤ 2 ^ 32 - 256 → ∃ t,
      core.run 2 { s with script := quantizeScript samples } = .next t ∧ t.q = samples.map quant) ∧
    (∀ (input : List Sample) (src dst : Word), input.length ≤ 2 ^ 32 - 256 → src ≠ 0 →
      resampleOverflows input.length src.toNat dst.toNat = false → ∃ t,
      core.run 4 { s with script := resampleScript input src dst } = .next t ∧
      t.rs = zoh input src.toNat dst.toNat) ∧
    (∀ len : Word, len.toNat ≤ 2 ^ 32 - 256 → ∃ t,
      core.run 2 { s with script := alignScript len } = .next t ∧ t.areg.toNat = align len.toNat)

/-- The script of `buildStacked(parts)`, run from any state, halted or not, leaves the parts back to
back, each padded, and one offset per part (R98, R167). -/
def Obligations.BuildStackedScript : Prop :=
  ∀ (s : State) (parts : List (List Byte)), (∀ p ∈ parts, p.length ≤ 2 ^ 32 - 256) →
    parts.length ≤ Config.segMax → (parts.map fun p => align p.length).sum ≤ 2 ^ 32 - 256 →
    ∃ t, core.run (2 * parts.length + 2) { s with script := buildStackedScript parts } = .next t ∧
      t.seg.map Segment.data = parts ∧
      t.lay = (parts.flatMap fun p => p ++ List.replicate ((256 - p.length % 256) % 256) 0) ∧
      t.offs = (List.range parts.length).map fun i =>
        BitVec.ofNat 32 ((parts.take i).map fun p => align p.length).sum

/-! ### The whole machine -/

/-- The halt ends only by `CLEAR`, `RESET` or the reset event, and each of them discards the segments
and every product of the run (R241). -/
def Obligations.HaltEndsOnlyByClearOrReset : Prop :=
  ∀ (op : HostOp) (s t : State), s.fcode ≠ 0 → hostOp op s = .next t →
    (t.fcode = 0 ↔ endsRun op = true) ∧
    (endsRun op = true →
      t.seg = [] ∧ t.offs = [] ∧ t.lay = [] ∧ t.out = [] ∧ t.hex = [] ∧ t.slot = 0)

/-- While a block stays halted its record is that of the first fault, and no segment, offset, slot,
text or container changes: no container comes out of a run that had a fault (R239, R242). -/
def Obligations.FirstFaultStays : Prop :=
  ∀ (op : HostOp) (s t : State), s.fcode ≠ 0 → hostOp op s = .next t → t.fcode ≠ 0 →
    t.fcode = s.fcode ∧ t.fvalue = s.fvalue ∧ t.fnote = s.fnote ∧ t.flabel = s.flabel ∧
    t.seg = s.seg ∧ t.offs = s.offs ∧ t.slot = s.slot ∧ t.out = s.out ∧ t.hex = s.hex

/-- Segments are immutable and ordered: an operation leaves the table, appends one segment at its end
(only `PUSH` and `CONV` do), or is one of the three that start a new run and empties it (R32, R35). -/
def Obligations.SegmentsOnlyAppended : Prop :=
  ∀ (op : HostOp) (s t : State), hostOp op s = .next t →
    t.seg = s.seg ∨
    ((∃ g, t.seg = s.seg ++ [g]) ∧
      ∃ w, (op = .command w ∨ op = .writeReg 0 w) ∧ (w = 0x05000000 ∨ w = 0x0C000000)) ∨
    (t.seg = [] ∧ endsRun op = true)

/-- Once an oversize segment is in the table the warning stays until a new run is started, and the
warning appears only by an appended oversize segment (R29, R234). -/
def Obligations.WarningFollowsSegments : Prop :=
  ∀ (op : HostOp) (s t : State), hostOp op s = .next t →
    (warn s = true → (warn t = false ↔ endsRun op = true)) ∧
    (warn s = false → warn t = true →
      ∃ g : Segment, t.seg = s.seg ++ [g] ∧ 65535 < g.data.length)

/-- The state after reset meets the block's invariant. -/
def Obligations.InvariantAtReset : Prop := Inv State.reset

/-- Every step keeps the invariant: buffers and tables within their limits (R31, R32), a legal fault
record (R26, R230), aligned offsets and slot (R34, R66). -/
def Obligations.StepKeepsInvariant : Prop :=
  ∀ s t : State, Inv s → step s = .next t → Inv t
end

