-- ==== Sys2Proof/Laws/Config.lean ====
section
/-!
SUPPORT. What the spec's constraints on the open parameters give (00_scope.md R7, 10_state.md R40 to
R42), and the lookup of R120 on a table whose keys differ.
-/

namespace Sys2Proof.Config

/-- The parts of legality, one conjunct each. -/
theorem Params.legal_parts {p : Params} (h : p.legal = true) :
    1 ≤ p.clockHz ∧ p.clockHz < 2 ^ 32 ∧ p.noteRom.length = 96
      ∧ (∀ e ∈ p.noteRom, e.legal = true) ∧ keysDistinct p.noteRom = true
      ∧ (∃ e ∈ p.noteRom, e.key = keyC2 ∧ p.clockHz / e.period = 8287)
      ∧ p.nameTag.length ≤ 254 ∧ (∀ b ∈ p.nameTag, b ≠ 0) := by
  simp only [Params.legal, Bool.and_eq_true, decide_eq_true_eq, List.all_eq_true,
    List.any_eq_true, beq_iff_eq, bne_iff_ne] at h
  obtain ⟨⟨⟨⟨⟨⟨⟨h1, h2⟩, h3⟩, h4⟩, h5⟩, h6⟩, h7⟩, h8⟩ := h
  exact ⟨h1, h2, h3, h4, h5, h6, h7, fun b hb => (h8 b hb).1⟩

/-- The parameters of the implementation at hand are legal. -/
theorem params_legal : params.legal = true := impl.legal

/-- `CLOCK_HZ < 2^32` (R40). -/
theorem clockHz_lt : params.clockHz < 2 ^ 32 := (Params.legal_parts params_legal).2.1

/-- The name tag has at most 254 bytes (R42). -/
theorem nameTag_length_le : params.nameTag.length ≤ 254 :=
  (Params.legal_parts params_legal).2.2.2.2.2.2.1

/-- A key of the table is not empty and a period is at least 1 (R41). -/
theorem NoteEntry.legal_parts {e : NoteEntry} (h : e.legal = true) :
    e.key ≠ [] ∧ e.key.length ≤ 255 ∧ 1 ≤ e.period := by
  simp only [NoteEntry.legal, Bool.and_eq_true, bne_iff_ne, decide_eq_true_eq] at h
  exact ⟨h.1.1, h.1.2, h.2⟩

/-- Entries of the implementation's table are legal (R41). -/
theorem noteRom_legal {e : NoteEntry} (he : e ∈ params.noteRom) :
    e.key ≠ [] ∧ e.key.length ≤ 255 ∧ 1 ≤ e.period :=
  NoteEntry.legal_parts ((Params.legal_parts params_legal).2.2.2.1 e he)

/-- The table has the key "C-2", at 8287 Hz (R7). -/
theorem exists_keyC2 : ∃ e ∈ params.noteRom, e.key = keyC2 ∧ params.clockHz / e.period = 8287 :=
  (Params.legal_parts params_legal).2.2.2.2.2.1

/-- In a table with distinct keys the entry of a key is found under that key. -/
theorem find_of_keysDistinct {es : List NoteEntry} (hd : keysDistinct es = true) {e : NoteEntry}
    (he : e ∈ es) : es.find? (fun f => f.key == e.key) = some e := by
  induction es with
  | nil => cases he
  | cons f fs ih =>
    simp only [keysDistinct, Bool.and_eq_true, List.all_eq_true, bne_iff_ne] at hd
    rcases List.mem_cons.1 he with rfl | he
    · simp
    · rw [List.find?_cons_of_neg (by simpa using (hd.1 e he).symm), ih hd.2 he]

end Sys2Proof.Config

namespace Sys2Proof.Machine

/-- A key of the implementation's table is looked up as its own entry (R120). -/
theorem lookup_of_mem {e : Config.NoteEntry} (he : e ∈ Config.params.noteRom) :
    lookup Config.params e.key = some e :=
  Config.find_of_keysDistinct (Config.Params.legal_parts Config.params_legal).2.2.2.2.1 he

/-- A string that is no key is not found (R120). -/
theorem lookup_of_not_mem {p : Config.Params} {k : List Byte} (h : ∀ e ∈ p.noteRom, e.key ≠ k) :
    lookup p k = none := by
  simpa [lookup, List.find?_eq_none] using h

end Sys2Proof.Machine
end

