-- ==== Sys2Proof/Laws/State.lean ====
section
/-!
SUPPORT. What each named update of the state does to each field, so that no proof unfolds one.
-/

namespace Sys2Proof.Machine

/-! ### Fault entry (R238) -/

@[simp] theorem raise_srcHz (f : HardFault) (v : Word) (s : State) : (raise f v s).srcHz = s.srcHz := rfl
@[simp] theorem raise_chans (f : HardFault) (v : Word) (s : State) : (raise f v s).chans = s.chans := rfl
@[simp] theorem raise_dstHz (f : HardFault) (v : Word) (s : State) : (raise f v s).dstHz = s.dstHz := rfl
@[simp] theorem raise_areg (f : HardFault) (v : Word) (s : State) : (raise f v s).areg = s.areg := rfl
@[simp] theorem raise_slot (f : HardFault) (v : Word) (s : State) : (raise f v s).slot = s.slot := rfl
@[simp] theorem raise_segSel (f : HardFault) (v : Word) (s : State) : (raise f v s).segSel = s.segSel := rfl
@[simp] theorem raise_fcode (f : HardFault) (v : Word) (s : State) : (raise f v s).fcode = faultCode f := rfl
@[simp] theorem raise_fvalue (f : HardFault) (v : Word) (s : State) : (raise f v s).fvalue = v := rfl
@[simp] theorem raise_note (f : HardFault) (v : Word) (s : State) : (raise f v s).note = s.note := rfl
@[simp] theorem raise_label (f : HardFault) (v : Word) (s : State) : (raise f v s).label = s.label := rfl
@[simp] theorem raise_inBuf (f : HardFault) (v : Word) (s : State) : (raise f v s).inBuf = s.inBuf := rfl
@[simp] theorem raise_rs (f : HardFault) (v : Word) (s : State) : (raise f v s).rs = s.rs := rfl
@[simp] theorem raise_q (f : HardFault) (v : Word) (s : State) : (raise f v s).q = s.q := rfl
@[simp] theorem raise_lay (f : HardFault) (v : Word) (s : State) : (raise f v s).lay = s.lay := rfl
@[simp] theorem raise_out (f : HardFault) (v : Word) (s : State) : (raise f v s).out = s.out := rfl
@[simp] theorem raise_hex (f : HardFault) (v : Word) (s : State) : (raise f v s).hex = s.hex := rfl
@[simp] theorem raise_fnote (f : HardFault) (v : Word) (s : State) : (raise f v s).fnote = s.note := rfl
@[simp] theorem raise_flabel (f : HardFault) (v : Word) (s : State) : (raise f v s).flabel = s.label := rfl
@[simp] theorem raise_seg (f : HardFault) (v : Word) (s : State) : (raise f v s).seg = s.seg := rfl
@[simp] theorem raise_offs (f : HardFault) (v : Word) (s : State) : (raise f v s).offs = s.offs := rfl
@[simp] theorem raise_script (f : HardFault) (v : Word) (s : State) : (raise f v s).script = s.script := rfl
@[simp] theorem raise_reply (f : HardFault) (v : Word) (s : State) : (raise f v s).reply = s.reply := rfl

/-! ### Appending a segment (R32) -/

@[simp] theorem appendSegment_srcHz (g : Segment) (s : State) : (appendSegment g s).srcHz = s.srcHz := rfl
@[simp] theorem appendSegment_chans (g : Segment) (s : State) : (appendSegment g s).chans = s.chans := rfl
@[simp] theorem appendSegment_dstHz (g : Segment) (s : State) : (appendSegment g s).dstHz = s.dstHz := rfl
@[simp] theorem appendSegment_areg (g : Segment) (s : State) : (appendSegment g s).areg = s.areg := rfl
@[simp] theorem appendSegment_slot (g : Segment) (s : State) : (appendSegment g s).slot = s.slot := rfl
@[simp] theorem appendSegment_segSel (g : Segment) (s : State) : (appendSegment g s).segSel = s.segSel := rfl
@[simp] theorem appendSegment_fcode (g : Segment) (s : State) : (appendSegment g s).fcode = s.fcode := rfl
@[simp] theorem appendSegment_fvalue (g : Segment) (s : State) : (appendSegment g s).fvalue = s.fvalue := rfl
@[simp] theorem appendSegment_note (g : Segment) (s : State) : (appendSegment g s).note = s.note := rfl
@[simp] theorem appendSegment_label (g : Segment) (s : State) : (appendSegment g s).label = s.label := rfl
@[simp] theorem appendSegment_inBuf (g : Segment) (s : State) : (appendSegment g s).inBuf = s.inBuf := rfl
@[simp] theorem appendSegment_rs (g : Segment) (s : State) : (appendSegment g s).rs = s.rs := rfl
@[simp] theorem appendSegment_q (g : Segment) (s : State) : (appendSegment g s).q = s.q := rfl
@[simp] theorem appendSegment_lay (g : Segment) (s : State) : (appendSegment g s).lay = s.lay := rfl
@[simp] theorem appendSegment_out (g : Segment) (s : State) : (appendSegment g s).out = s.out := rfl
@[simp] theorem appendSegment_hex (g : Segment) (s : State) : (appendSegment g s).hex = s.hex := rfl
@[simp] theorem appendSegment_fnote (g : Segment) (s : State) : (appendSegment g s).fnote = s.fnote := rfl
@[simp] theorem appendSegment_flabel (g : Segment) (s : State) : (appendSegment g s).flabel = s.flabel := rfl
@[simp] theorem appendSegment_seg (g : Segment) (s : State) : (appendSegment g s).seg = s.seg ++ [g] := rfl
@[simp] theorem appendSegment_offs (g : Segment) (s : State) : (appendSegment g s).offs = s.offs := rfl
@[simp] theorem appendSegment_script (g : Segment) (s : State) : (appendSegment g s).script = s.script := rfl
@[simp] theorem appendSegment_reply (g : Segment) (s : State) : (appendSegment g s).reply = s.reply := rfl

/-! ### Storing a layout (R73) -/

@[simp] theorem storeLayout_srcHz (l : List Byte) (o : List Nat) (k : Nat) (s : State) : (storeLayout l o k s).srcHz = s.srcHz := rfl
@[simp] theorem storeLayout_chans (l : List Byte) (o : List Nat) (k : Nat) (s : State) : (storeLayout l o k s).chans = s.chans := rfl
@[simp] theorem storeLayout_dstHz (l : List Byte) (o : List Nat) (k : Nat) (s : State) : (storeLayout l o k s).dstHz = s.dstHz := rfl
@[simp] theorem storeLayout_areg (l : List Byte) (o : List Nat) (k : Nat) (s : State) : (storeLayout l o k s).areg = s.areg := rfl
@[simp] theorem storeLayout_slot (l : List Byte) (o : List Nat) (k : Nat) (s : State) : (storeLayout l o k s).slot = BitVec.ofNat 32 k := rfl
@[simp] theorem storeLayout_segSel (l : List Byte) (o : List Nat) (k : Nat) (s : State) : (storeLayout l o k s).segSel = s.segSel := rfl
@[simp] theorem storeLayout_fcode (l : List Byte) (o : List Nat) (k : Nat) (s : State) : (storeLayout l o k s).fcode = s.fcode := rfl
@[simp] theorem storeLayout_fvalue (l : List Byte) (o : List Nat) (k : Nat) (s : State) : (storeLayout l o k s).fvalue = s.fvalue := rfl
@[simp] theorem storeLayout_note (l : List Byte) (o : List Nat) (k : Nat) (s : State) : (storeLayout l o k s).note = s.note := rfl
@[simp] theorem storeLayout_label (l : List Byte) (o : List Nat) (k : Nat) (s : State) : (storeLayout l o k s).label = s.label := rfl
@[simp] theorem storeLayout_inBuf (l : List Byte) (o : List Nat) (k : Nat) (s : State) : (storeLayout l o k s).inBuf = s.inBuf := rfl
@[simp] theorem storeLayout_rs (l : List Byte) (o : List Nat) (k : Nat) (s : State) : (storeLayout l o k s).rs = s.rs := rfl
@[simp] theorem storeLayout_q (l : List Byte) (o : List Nat) (k : Nat) (s : State) : (storeLayout l o k s).q = s.q := rfl
@[simp] theorem storeLayout_lay (l : List Byte) (o : List Nat) (k : Nat) (s : State) : (storeLayout l o k s).lay = l := rfl
@[simp] theorem storeLayout_out (l : List Byte) (o : List Nat) (k : Nat) (s : State) : (storeLayout l o k s).out = s.out := rfl
@[simp] theorem storeLayout_hex (l : List Byte) (o : List Nat) (k : Nat) (s : State) : (storeLayout l o k s).hex = s.hex := rfl
@[simp] theorem storeLayout_fnote (l : List Byte) (o : List Nat) (k : Nat) (s : State) : (storeLayout l o k s).fnote = s.fnote := rfl
@[simp] theorem storeLayout_flabel (l : List Byte) (o : List Nat) (k : Nat) (s : State) : (storeLayout l o k s).flabel = s.flabel := rfl
@[simp] theorem storeLayout_seg (l : List Byte) (o : List Nat) (k : Nat) (s : State) : (storeLayout l o k s).seg = s.seg := rfl
@[simp] theorem storeLayout_offs (l : List Byte) (o : List Nat) (k : Nat) (s : State) : (storeLayout l o k s).offs = o.map (BitVec.ofNat 32) := rfl
@[simp] theorem storeLayout_script (l : List Byte) (o : List Nat) (k : Nat) (s : State) : (storeLayout l o k s).script = s.script := rfl
@[simp] theorem storeLayout_reply (l : List Byte) (o : List Nat) (k : Nat) (s : State) : (storeLayout l o k s).reply = s.reply := rfl

/-! ### What CLEAR writes (R214) -/

@[simp] theorem clearRun_srcHz (s : State) : (clearRun s).srcHz = s.srcHz := rfl
@[simp] theorem clearRun_chans (s : State) : (clearRun s).chans = s.chans := rfl
@[simp] theorem clearRun_dstHz (s : State) : (clearRun s).dstHz = s.dstHz := rfl
@[simp] theorem clearRun_areg (s : State) : (clearRun s).areg = s.areg := rfl
@[simp] theorem clearRun_slot (s : State) : (clearRun s).slot = 0 := rfl
@[simp] theorem clearRun_segSel (s : State) : (clearRun s).segSel = s.segSel := rfl
@[simp] theorem clearRun_fcode (s : State) : (clearRun s).fcode = 0 := rfl
@[simp] theorem clearRun_fvalue (s : State) : (clearRun s).fvalue = 0 := rfl
@[simp] theorem clearRun_note (s : State) : (clearRun s).note = s.note := rfl
@[simp] theorem clearRun_label (s : State) : (clearRun s).label = s.label := rfl
@[simp] theorem clearRun_inBuf (s : State) : (clearRun s).inBuf = s.inBuf := rfl
@[simp] theorem clearRun_rs (s : State) : (clearRun s).rs = s.rs := rfl
@[simp] theorem clearRun_q (s : State) : (clearRun s).q = s.q := rfl
@[simp] theorem clearRun_lay (s : State) : (clearRun s).lay = [] := rfl
@[simp] theorem clearRun_out (s : State) : (clearRun s).out = [] := rfl
@[simp] theorem clearRun_hex (s : State) : (clearRun s).hex = [] := rfl
@[simp] theorem clearRun_fnote (s : State) : (clearRun s).fnote = [] := rfl
@[simp] theorem clearRun_flabel (s : State) : (clearRun s).flabel = [] := rfl
@[simp] theorem clearRun_seg (s : State) : (clearRun s).seg = [] := rfl
@[simp] theorem clearRun_offs (s : State) : (clearRun s).offs = [] := rfl
@[simp] theorem clearRun_script (s : State) : (clearRun s).script = s.script := rfl
@[simp] theorem clearRun_reply (s : State) : (clearRun s).reply = s.reply := rfl

/-! ### What reset writes (R215, R261) -/

@[simp] theorem resetBlock_srcHz (s : State) : (resetBlock s).srcHz = 0 := rfl
@[simp] theorem resetBlock_chans (s : State) : (resetBlock s).chans = 0 := rfl
@[simp] theorem resetBlock_dstHz (s : State) : (resetBlock s).dstHz = 0 := rfl
@[simp] theorem resetBlock_areg (s : State) : (resetBlock s).areg = 0 := rfl
@[simp] theorem resetBlock_slot (s : State) : (resetBlock s).slot = 0 := rfl
@[simp] theorem resetBlock_segSel (s : State) : (resetBlock s).segSel = 0 := rfl
@[simp] theorem resetBlock_fcode (s : State) : (resetBlock s).fcode = 0 := rfl
@[simp] theorem resetBlock_fvalue (s : State) : (resetBlock s).fvalue = 0 := rfl
@[simp] theorem resetBlock_note (s : State) : (resetBlock s).note = [] := rfl
@[simp] theorem resetBlock_label (s : State) : (resetBlock s).label = [] := rfl
@[simp] theorem resetBlock_inBuf (s : State) : (resetBlock s).inBuf = [] := rfl
@[simp] theorem resetBlock_rs (s : State) : (resetBlock s).rs = [] := rfl
@[simp] theorem resetBlock_q (s : State) : (resetBlock s).q = [] := rfl
@[simp] theorem resetBlock_lay (s : State) : (resetBlock s).lay = [] := rfl
@[simp] theorem resetBlock_out (s : State) : (resetBlock s).out = [] := rfl
@[simp] theorem resetBlock_hex (s : State) : (resetBlock s).hex = [] := rfl
@[simp] theorem resetBlock_fnote (s : State) : (resetBlock s).fnote = [] := rfl
@[simp] theorem resetBlock_flabel (s : State) : (resetBlock s).flabel = [] := rfl
@[simp] theorem resetBlock_seg (s : State) : (resetBlock s).seg = [] := rfl
@[simp] theorem resetBlock_offs (s : State) : (resetBlock s).offs = [] := rfl
@[simp] theorem resetBlock_script (s : State) : (resetBlock s).script = s.script := rfl
@[simp] theorem resetBlock_reply (s : State) : (resetBlock s).reply = s.reply := rfl

/-! ### Handing the host a value (R71) -/

@[simp] theorem deliver_srcHz (r : Reply) (s : State) : (deliver r s).srcHz = s.srcHz := rfl
@[simp] theorem deliver_chans (r : Reply) (s : State) : (deliver r s).chans = s.chans := rfl
@[simp] theorem deliver_dstHz (r : Reply) (s : State) : (deliver r s).dstHz = s.dstHz := rfl
@[simp] theorem deliver_areg (r : Reply) (s : State) : (deliver r s).areg = s.areg := rfl
@[simp] theorem deliver_slot (r : Reply) (s : State) : (deliver r s).slot = s.slot := rfl
@[simp] theorem deliver_segSel (r : Reply) (s : State) : (deliver r s).segSel = s.segSel := rfl
@[simp] theorem deliver_fcode (r : Reply) (s : State) : (deliver r s).fcode = s.fcode := rfl
@[simp] theorem deliver_fvalue (r : Reply) (s : State) : (deliver r s).fvalue = s.fvalue := rfl
@[simp] theorem deliver_note (r : Reply) (s : State) : (deliver r s).note = s.note := rfl
@[simp] theorem deliver_label (r : Reply) (s : State) : (deliver r s).label = s.label := rfl
@[simp] theorem deliver_inBuf (r : Reply) (s : State) : (deliver r s).inBuf = s.inBuf := rfl
@[simp] theorem deliver_rs (r : Reply) (s : State) : (deliver r s).rs = s.rs := rfl
@[simp] theorem deliver_q (r : Reply) (s : State) : (deliver r s).q = s.q := rfl
@[simp] theorem deliver_lay (r : Reply) (s : State) : (deliver r s).lay = s.lay := rfl
@[simp] theorem deliver_out (r : Reply) (s : State) : (deliver r s).out = s.out := rfl
@[simp] theorem deliver_hex (r : Reply) (s : State) : (deliver r s).hex = s.hex := rfl
@[simp] theorem deliver_fnote (r : Reply) (s : State) : (deliver r s).fnote = s.fnote := rfl
@[simp] theorem deliver_flabel (r : Reply) (s : State) : (deliver r s).flabel = s.flabel := rfl
@[simp] theorem deliver_seg (r : Reply) (s : State) : (deliver r s).seg = s.seg := rfl
@[simp] theorem deliver_offs (r : Reply) (s : State) : (deliver r s).offs = s.offs := rfl
@[simp] theorem deliver_script (r : Reply) (s : State) : (deliver r s).script = s.script := rfl
@[simp] theorem deliver_reply (r : Reply) (s : State) : (deliver r s).reply = some r := rfl

end Sys2Proof.Machine
end

