-- ==== Sys2Proof/Laws/Memory.lean ====
section
/-!
SUPPORT. The buffers' laws: what is stored is read back, other buffers keep their content, and every
operation that stores keeps the limits of 10_state.md R31 and R32.
-/

namespace Sys2Proof.Machine

/-! ### Read after write (R30, R73) -/

@[simp] theorem bytesOf_storeBytes (b : ByteBuf) (bytes : List Byte) (s : State) :
    bytesOf b (storeBytes b bytes s) = bytes := by cases b <;> rfl

theorem bytesOf_storeBytes_of_ne {b b' : ByteBuf} (h : b' ≠ b) (bytes : List Byte) (s : State) :
    bytesOf b' (storeBytes b bytes s) = bytesOf b' s := by
  cases b <;> cases b' <;> first | rfl | exact absurd rfl h

@[simp] theorem samplesOf_storeSamples (b : SampleBuf) (xs : List Sample) (s : State) :
    samplesOf b (storeSamples b xs s) = xs := by cases b <;> rfl

theorem samplesOf_storeSamples_of_ne {b b' : SampleBuf} (h : b' ≠ b) (xs : List Sample)
    (s : State) : samplesOf b' (storeSamples b xs s) = samplesOf b' s := by
  cases b <;> cases b' <;> first | rfl | exact absurd rfl h

/-- A read of the whole buffer gives its content. -/
theorem memRead_all {α : Type} (buffer : List α) : memRead buffer 0 buffer.length = some buffer := by
  simp [memRead]

/-! ### The limits are kept -/

theorem reset_wf : Memory.wf State.reset := by decide

theorem storeBytes_wf {s : State} {b : ByteBuf} {bytes : List Byte} (h : Memory.wf s)
    (hb : bytes.length ≤ byteLimit b) : Memory.wf (storeBytes b bytes s) := by
  cases b <;> simp_all [Memory.wf, storeBytes, byteLimit]

theorem storeSamples_wf {s : State} {b : SampleBuf} {xs : List Sample} (h : Memory.wf s)
    (hb : xs.length ≤ Config.lenMax) : Memory.wf (storeSamples b xs s) := by
  cases b <;> simp_all [Memory.wf, storeSamples]

theorem hostSetBytes_wf {s t : State} {b : ByteBuf} {bytes : List Byte} (h : Memory.wf s)
    (ht : hostSetBytes b bytes s = .next t) : Memory.wf t := by
  unfold hostSetBytes at ht
  split_ifs at ht with h1 h2
  cases ht
  exact storeBytes_wf h (Nat.not_lt.1 h2)

theorem hostSetSamples_wf {s t : State} {b : SampleBuf} {xs : List Sample} (h : Memory.wf s)
    (ht : hostSetSamples b xs s = .next t) : Memory.wf t := by
  unfold hostSetSamples at ht
  split_ifs at ht with h1
  cases ht
  exact storeSamples_wf h (Nat.not_lt.1 h1)

theorem raise_wf {s : State} (f : HardFault) (v : Word) (h : Memory.wf s) :
    Memory.wf (raise f v s) := by
  simp_all [Memory.wf]

theorem appendSegment_wf {s : State} {g : Segment} (h : Memory.wf s)
    (hs : s.seg.length < Config.segMax)
    (hg : g.note.length ≤ Config.stringMax ∧ g.label.length ≤ Config.stringMax
      ∧ g.data.length ≤ Config.lenMax) : Memory.wf (appendSegment g s) := by
  simp only [Memory.wf, appendSegment_note, appendSegment_label, appendSegment_inBuf,
    appendSegment_rs, appendSegment_q, appendSegment_lay, appendSegment_out, appendSegment_hex,
    appendSegment_fnote, appendSegment_flabel, appendSegment_seg, List.length_append,
    List.length_singleton, List.mem_append, List.mem_singleton] at h ⊢
  obtain ⟨h1, h2, h3, h4, h5, h6, h7, h8, h9, h10, -, h12⟩ := h
  refine ⟨h1, h2, h3, h4, h5, h6, h7, h8, h9, h10, hs, ?_⟩
  rintro x (hx | rfl)
  exacts [h12 x hx, hg]

theorem storeLayout_wf {s : State} {lay : List Byte} (offs : List Nat) (slot : Nat)
    (h : Memory.wf s) (hl : lay.length ≤ Config.lenMax) :
    Memory.wf (storeLayout lay offs slot s) := by
  simp_all [Memory.wf]

theorem clearRun_wf {s : State} (h : Memory.wf s) : Memory.wf (clearRun s) := by
  simp_all [Memory.wf]

theorem resetBlock_wf (s : State) : Memory.wf (resetBlock s) := by
  simp [Memory.wf]

theorem deliver_wf {s : State} (r : Reply) (h : Memory.wf s) : Memory.wf (deliver r s) := h

theorem writeReg_wf {s : State} (r : Nat) (v : Word) (h : Memory.wf s) :
    Memory.wf (writeReg r v s) := by
  unfold writeReg; split <;> exact h

end Sys2Proof.Machine
end

