-- ==== Sys2Proof/Laws/Ops.lean ====
section
/-!
SUPPORT. What each shared operation and each command's effect can do, said once: proofs cite these
and do not unfold the meanings.
-/

namespace Sys2Proof.Machine

/-! ### The halt -/

theorem halted_eq_false_iff {s : State} : halted s = false ↔ s.fcode = 0 := by simp [halted]

theorem halted_eq_true_iff {s : State} : halted s = true ↔ s.fcode ≠ 0 := by simp [halted]

/-- A running block executes a command's effect (R239). -/
theorem unlessHalted_running {s : State} (effect : State → State) (h : s.fcode = 0) :
    unlessHalted effect s = .next (effect s) := by
  simp [unlessHalted, halted_eq_false_iff.2 h]

/-- A halted block ignores it (R239). -/
theorem unlessHalted_halted {s : State} (effect : State → State) (h : s.fcode ≠ 0) :
    unlessHalted effect s = .next s := by
  simp [unlessHalted, halted_eq_true_iff.2 h]

/-- What a command does to a block that executes it. -/
def effect : Instr → State → State
  | .nop => fun s => s
  | .rate => rateEffect Config.params
  | .quant => quantEffect
  | .resamp => resampEffect
  | .align => alignEffect
  | .push => pushEffect
  | .lsingle => lsingleEffect
  | .lstack => lstackEffect
  | .lequal => lequalEffect
  | .hexoff idx => hexoffEffect idx
  | .hexslot => hexslotEffect
  | .ser => serEffect Config.params
  | .conv => convEffect Config.params
  | .clear => clearRun
  | .reset => resetBlock

/-- `CLEAR` and `RESET` execute also while halted; the other commands only on a running block
(R214, R215, R239). -/
theorem exec_eq (i : Instr) (s : State) :
    exec i s = .next (if s.fcode ≠ 0 ∧ i ≠ .clear ∧ i ≠ .reset then s else effect i s) := by
  by_cases h : s.fcode = 0
  · rw [if_neg (fun hn => hn.1 h)]
    cases i <;> first | exact unlessHalted_running _ h | exact unlessHalted_running (effect .nop) h | rfl
  · cases i <;>
      first
        | rw [if_neg (by simp)]; rfl
        | rw [if_pos ⟨h, by simp, by simp⟩]; exact unlessHalted_halted _ h
        | rw [if_pos ⟨h, by simp, by simp⟩]; exact unlessHalted_halted (effect .nop) h

/-- On a running block a command is its effect. -/
theorem exec_running (i : Instr) {s : State} (h : s.fcode = 0) : exec i s = .next (effect i s) := by
  rw [exec_eq, if_neg fun hn => hn.1 h]

/-- A halted block ignores every command but `CLEAR` and `RESET` (R239). -/
theorem exec_halted {i : Instr} {s : State} (h : s.fcode ≠ 0) (hc : i ≠ .clear) (hr : i ≠ .reset) :
    exec i s = .next s := by
  rw [exec_eq, if_pos ⟨h, hc, hr⟩]

/-! ### Each effect: a fault entry, or its one write -/

theorem rateEffect_cases (p : Config.Params) (s : State) :
    (rateOf p s.note = none ∧ rateEffect p s = raise .invalidNote (BitVec.ofNat 32 s.note.length) s) ∨
    ∃ r, rateOf p s.note = some r ∧ rateEffect p s = { s with dstHz := r } := by
  unfold rateEffect; cases rateOf p s.note <;> simp

theorem resampEffect_cases (s : State) :
    (s.srcHz = 0 ∧ resampEffect s = raise .badOperand 1 s) ∨
    (s.srcHz ≠ 0 ∧ resampleOverflows s.inBuf.length s.srcHz.toNat s.dstHz.toNat = true ∧
      resampEffect s = raise .overflow 1 s) ∨
    (s.srcHz ≠ 0 ∧ resampleOverflows s.inBuf.length s.srcHz.toNat s.dstHz.toNat = false ∧
      resampEffect s = { s with rs := zoh s.inBuf s.srcHz.toNat s.dstHz.toNat }) := by
  unfold resampEffect
  by_cases h : s.srcHz = 0
  · exact .inl ⟨h, if_pos h⟩
  · rw [if_neg h]
    cases resampleOverflows s.inBuf.length s.srcHz.toNat s.dstHz.toNat
    · exact .inr (.inr ⟨h, rfl, rfl⟩)
    · exact .inr (.inl ⟨h, rfl, rfl⟩)

theorem alignEffect_cases (s : State) :
    (Config.lenMax < s.areg.toNat ∧ alignEffect s = raise .overflow 4 s) ∨
    (s.areg.toNat ≤ Config.lenMax ∧
      alignEffect s = { s with areg := BitVec.ofNat 32 (align s.areg.toNat) }) := by
  unfold alignEffect
  by_cases h : Config.lenMax < s.areg.toNat
  · exact .inl ⟨h, if_pos h⟩
  · exact .inr ⟨Nat.not_lt.1 h, if_neg h⟩

theorem pushEffect_cases (s : State) :
    (Config.segMax ≤ s.seg.length ∧ pushEffect s = raise .overflow 2 s) ∨
    (s.seg.length < Config.segMax ∧ pushEffect s = appendSegment (stagedSegment s) s) := by
  unfold pushEffect
  by_cases h : Config.segMax ≤ s.seg.length
  · exact .inl ⟨h, if_pos h⟩
  · exact .inr ⟨Nat.not_le.1 h, if_neg h⟩

theorem lsingleEffect_cases (s : State) :
    (s.seg.length ≠ 1 ∧ lsingleEffect s = raise .badOperand 2 s) ∨
    ∃ g, s.seg = [g] ∧
      lsingleEffect s = storeLayout (padTo (align g.data.length) g.data) [0] 0 s := by
  unfold lsingleEffect
  rcases h : s.seg with _ | ⟨g, _ | ⟨g', gs⟩⟩ <;> simp

theorem lstackEffect_cases (s : State) :
    (Config.lenMax < paddedTotal (parts s) ∧ lstackEffect s = raise .overflow 3 s) ∨
    (paddedTotal (parts s) ≤ Config.lenMax ∧
      lstackEffect s
        = storeLayout (stackedFrom 0 (parts s)).1 (stackedFrom 0 (parts s)).2 0 s) := by
  unfold lstackEffect
  by_cases h : Config.lenMax < paddedTotal (parts s)
  · exact .inl ⟨h, if_pos h⟩
  · exact .inr ⟨Nat.not_lt.1 h, if_neg h⟩

theorem lequalEffect_cases (s : State) :
    (Config.lenMax < s.seg.length * slotOf (parts s) ∧ lequalEffect s = raise .overflow 3 s) ∨
    (s.seg.length * slotOf (parts s) ≤ Config.lenMax ∧
      lequalEffect s
        = storeLayout (equalBuffer (slotOf (parts s)) (parts s))
            ((List.range s.seg.length).map (· * slotOf (parts s))) (slotOf (parts s)) s) := by
  unfold lequalEffect
  by_cases h : Config.lenMax < s.seg.length * slotOf (parts s)
  · exact .inl ⟨h, if_pos h⟩
  · exact .inr ⟨Nat.not_lt.1 h, if_neg h⟩

theorem hexoffEffect_cases (idx : Nat) (s : State) :
    (s.offs[idx]? = none ∧ hexoffEffect idx s = raise .badOperand 3 s) ∨
    ∃ o, s.offs[idx]? = some o ∧ hexoffEffect idx s = { s with hex := hex2 (pageOf o) } := by
  unfold hexoffEffect
  rcases h : s.offs[idx]? with _ | o <;> simp

theorem serEffect_cases (p : Config.Params) (s : State) :
    (s.seg = [] ∧ serEffect p s = raise .badOperand 4 s) ∨
    (s.seg ≠ [] ∧ 2 ^ 32 - 1 < sizeField p.nameTag s.lay ∧ serEffect p s = raise .overflow 5 s) ∨
    ∃ g gs, s.seg = g :: gs ∧ sizeField p.nameTag s.lay ≤ 2 ^ 32 - 1 ∧
      serEffect p s = { s with out := container p.nameTag g.targetHz s.lay } := by
  unfold serEffect
  rcases h : s.seg with _ | ⟨g, gs⟩
  · simp
  · by_cases hs : 2 ^ 32 - 1 < sizeField p.nameTag s.lay
    · exact .inr (.inl ⟨by simp, hs, if_pos hs⟩)
    · exact .inr (.inr ⟨g, gs, rfl, Nat.not_lt.1 hs, if_neg hs⟩)

/-- The outcomes of `CONV`: a fault entry, or all its writes at a rate the table gives (R211, R212). -/
theorem convEffect_cases (p : Config.Params) (s : State) :
    (∃ f v, convEffect p s = raise f v s) ∨
    ∃ d, s.chans = 1 ∧ s.inBuf ≠ [] ∧ rateOf p s.note = some d ∧ s.srcHz ≠ 0 ∧
      resampleOverflows s.inBuf.length s.srcHz.toNat d.toNat = false ∧
      s.seg.length < Config.segMax ∧ convEffect p s = convert d s := by
  unfold convEffect
  by_cases h1 : s.chans = 1
  · by_cases h2 : s.inBuf.length = 0
    · exact .inl ⟨_, _, by rw [if_neg (not_not.2 h1), if_pos h2]⟩
    · rw [if_neg (not_not.2 h1), if_neg h2]
      rcases hr : rateOf p s.note with _ | d
      · exact .inl ⟨_, _, rfl⟩
      · by_cases h3 : s.srcHz = 0
        · exact .inl ⟨_, _, if_pos h3⟩
        · by_cases h4 : resampleOverflows s.inBuf.length s.srcHz.toNat d.toNat = true
          · exact .inl ⟨_, _, (if_neg h3).trans (if_pos h4)⟩
          · by_cases h5 : s.seg.length ≥ Config.segMax
            · exact .inl ⟨_, _, (if_neg h3).trans ((if_neg h4).trans (if_pos h5))⟩
            · refine .inr ⟨d, h1, ?_, rfl, h3, by simpa using h4, Nat.not_le.1 h5, ?_⟩
              · rintro h; simp [h] at h2
              · exact (if_neg h3).trans ((if_neg h4).trans (if_neg h5))
  · exact .inl ⟨_, _, if_pos h1⟩

/-! ### The host's operations -/

/-- A step with a pending operation is that operation on the rest of the script (R62, R74). -/
theorem step_cons {s : State} {op : HostOp} {rest : List HostOp} (h : s.script = op :: rest) :
    step s = hostOp op { s with script := rest } := by
  simp [step, hostTurn, h]

/-- What presenting a word does: its command, or the fault of an illegal word (R240). -/
theorem hostCommand_cases (w : Word) (s : State) :
    (∃ i, decode w = .ok i ∧ hostCommand w s = exec i s) ∨
    (∃ why, decode w = .error why ∧
      hostCommand w s = .next (if s.fcode ≠ 0 then s else raise .illegalCommand w s)) := by
  unfold hostCommand
  rcases h : decode w with why | i
  · refine .inr ⟨why, rfl, ?_⟩
    by_cases hf : s.fcode = 0
    · rw [if_neg (not_not.2 hf)]; exact unlessHalted_running _ hf
    · rw [if_pos hf]; exact unlessHalted_halted _ hf
  · exact .inl ⟨i, rfl, rfl⟩

/-- A host register write stores one register or nothing (R22, R28). -/
theorem writeReg_cases (r : Nat) (v : Word) (s : State) :
    writeReg r v s = s ∨ writeReg r v s = { s with srcHz := v } ∨
    writeReg r v s = { s with chans := v } ∨ writeReg r v s = { s with dstHz := v } ∨
    writeReg r v s = { s with areg := v } ∨ writeReg r v s = { s with segSel := v } := by
  unfold writeReg; split <;> simp

/-- What a host operation that ends in a next state is: a presented word, the reset event, a store
into one writable buffer, a read, or a register write (R62, R260). -/
theorem hostOp_cases {op : HostOp} {s t : State} (h : hostOp op s = .next t) :
    (∃ w, (op = .command w ∨ op = .writeReg 0 w) ∧ hostCommand w s = .next t) ∨
    (op = .resetEvent ∧ t = resetBlock s) ∨
    (∃ b bytes, op = .setBytes b bytes ∧ hostWritable b = true ∧ bytes.length ≤ byteLimit b ∧
      t = storeBytes b bytes s) ∨
    (∃ b xs, op = .setSamples b xs ∧ xs.length ≤ Config.lenMax ∧ t = storeSamples b xs s) ∨
    (∃ v, ((∃ b, op = .getBytes b) ∨ (∃ b, op = .getSamples b) ∨ (∃ i, op = .getSeg i) ∨
      op = .getOffs ∨ ∃ r, op = .readReg r) ∧ t = deliver v s) ∨
    (∃ r v, op = .writeReg r v ∧ r ≠ 0 ∧ t = writeReg r v s) := by
  cases op with
  | setBytes b bytes =>
    simp only [hostOp, hostSetBytes] at h
    split_ifs at h with h1 h2
    cases h
    exact .inr (.inr (.inl ⟨b, bytes, rfl, by simpa using h1, Nat.not_lt.1 h2, rfl⟩))
  | setSamples b xs =>
    simp only [hostOp, hostSetSamples] at h
    split_ifs at h with h1
    cases h
    exact .inr (.inr (.inr (.inl ⟨b, xs, rfl, Nat.not_lt.1 h1, rfl⟩)))
  | getSeg i =>
    simp only [hostOp, hostGetSeg] at h
    split at h <;> cases h
    exact .inr (.inr (.inr (.inr (.inl ⟨_, .inr (.inr (.inl ⟨i, rfl⟩)), rfl⟩))))
  | command w => exact .inl ⟨w, .inl rfl, h⟩
  | writeReg r v =>
    simp only [hostOp, hostWriteReg] at h
    split_ifs at h with h1
    · exact .inl ⟨v, .inr (by rw [h1]), h⟩
    · cases h; exact .inr (.inr (.inr (.inr (.inr ⟨r, v, rfl, h1, rfl⟩))))
  | getBytes b => cases h; exact .inr (.inr (.inr (.inr (.inl ⟨_, .inl ⟨b, rfl⟩, rfl⟩))))
  | getSamples b =>
    cases h; exact .inr (.inr (.inr (.inr (.inl ⟨_, .inr (.inl ⟨b, rfl⟩), rfl⟩))))
  | getOffs =>
    cases h; exact .inr (.inr (.inr (.inr (.inl ⟨_, .inr (.inr (.inr (.inl rfl))), rfl⟩))))
  | readReg r =>
    cases h; exact .inr (.inr (.inr (.inr (.inl ⟨_, .inr (.inr (.inr (.inr ⟨r, rfl⟩))), rfl⟩))))
  | resetEvent => cases h; exact .inr (.inl ⟨rfl, rfl⟩)

end Sys2Proof.Machine
end

