-- ==== Sys2Proof/Laws/PerInstr.lean ====
section
/-!
SUPPORT. The fields of every command's word: the opcode of the map and the argument
(30_encoding.md R90, R91), per constructor.
-/

namespace Sys2Proof.Laws.WordFields

/-- The two fields of a well-formed command's word are its opcode and its argument (R90, R92). -/
def Statement (i : Instr) : Prop :=
  i.wellFormed = true → opField (encode i) = opcode i ∧ argField (encode i) = argument i

theorem nop : Statement .nop := fun _ => by decide
theorem rate : Statement .rate := fun _ => by decide
theorem quant : Statement .quant := fun _ => by decide
theorem resamp : Statement .resamp := fun _ => by decide
theorem align : Statement .align := fun _ => by decide
theorem push : Statement .push := fun _ => by decide
theorem lsingle : Statement .lsingle := fun _ => by decide
theorem lstack : Statement .lstack := fun _ => by decide
theorem lequal : Statement .lequal := fun _ => by decide
theorem hexoff (idx : Nat) : Statement (.hexoff idx) := by
  intro h
  have hi : idx < 2 ^ 24 := by simpa [Instr.wellFormed] using h
  constructor
  · simp only [opField, encode, opcode, argument]
    rw [show BitVec.extractLsb' 24 8 (BitVec.ofNat 8 0x09 ++ BitVec.ofNat 24 idx)
      = BitVec.ofNat 8 0x09 from by
        ext k hk
        simp only [BitVec.getElem_extractLsb', BitVec.getLsbD_append]
        rw [if_neg (by omega), Nat.add_sub_cancel_left, BitVec.getLsbD_eq_getElem hk]]
    rfl
  · simp only [argField, encode, opcode, argument]
    rw [show BitVec.extractLsb' 0 24 (BitVec.ofNat 8 0x09 ++ BitVec.ofNat 24 idx)
      = BitVec.ofNat 24 idx from by
        ext k hk
        simp only [BitVec.getElem_extractLsb', BitVec.getLsbD_append]
        rw [if_pos (by omega), Nat.zero_add, BitVec.getLsbD_eq_getElem hk]]
    simpa using hi
theorem hexslot : Statement .hexslot := fun _ => by decide
theorem ser : Statement .ser := fun _ => by decide
theorem conv : Statement .conv := fun _ => by decide
theorem clear : Statement .clear := fun _ => by decide
theorem reset : Statement .reset := fun _ => by decide

end Sys2Proof.Laws.WordFields
end

