-- ==== Sys2Proof/Laws/Values.lean ====
section
/-!
SUPPORT. Small laws of the value forms: aligned lengths, filled payloads, big-endian fields and
hexadecimal digits (00_scope.md section 5, 43_alignment_stacking.md R161, R174).
-/

namespace Sys2Proof.Machine

/-- Up to `LEN_MAX` an aligned length stays within `LEN_MAX`, so `u32` holds it (R161). -/
theorem align_le_lenMax {n : Nat} (h : n ≤ Config.lenMax) : align n ≤ Config.lenMax := by
  unfold align; simp only [Config.lenMax] at *; omega

theorem align_toNat {n : Nat} (h : n ≤ Config.lenMax) :
    (BitVec.ofNat 32 (align n)).toNat = align n := by
  have := align_le_lenMax h
  simp only [BitVec.toNat_ofNat, Config.lenMax] at *; omega

/-- A filled payload is as long as asked for, unless it is longer already (R79). -/
theorem padTo_length (n : Nat) (payload : List Byte) :
    (padTo n payload).length = max payload.length n := by
  simp only [padTo, zeros, List.length_append, List.length_replicate]; omega

theorem be32_length (v : Word) : (be32 v).length = 4 := rfl

theorem be16_length (v : BitVec 16) : (be16 v).length = 2 := rfl

/-- A big-endian field read back is its value (R63). -/
theorem beValue_be32 (v : Word) : beValue (be32 v) = v.toNat := by
  have := v.isLt
  simp only [beValue, be32, List.foldl_cons, List.foldl_nil, BitVec.extractLsb'_toNat,
    Nat.shiftRight_eq_div_pow]
  omega

/-- A digit's byte reads back as the digit (R174). -/
theorem digitValue_hexDigit {d : Nat} (h : d < 16) : digitValue (hexDigit d) = some d := by
  revert d; decide

/-- A page offset is the start byte divided by 256 (R173). -/
theorem pageOf_eq (offset : Word) : pageOf offset = offset.toNat / 256 := by
  simp [pageOf, Nat.shiftRight_eq_div_pow]

end Sys2Proof.Machine
end

