-- ==== Sys2Proof/Tests/Slice0.lean ====
section
/-!
SUPPORT. Tests: expected values come from spec/95_test_vectors.md and from the words written out from
30_encoding.md; and, for every obligation with hypotheses, a named witness that meets them.
-/

namespace Sys2Proof.Tests

open Sys2Proof.Machine

/-- A field of the next state, if there is one. -/
def got {α : Type} (r : Result) (f : State → α) : Option α :=
  match r with
  | .next t => some (f t)
  | .fault _ => none
  | .refused _ => none

/-- The fault record. -/
def record (s : State) : Word × Word × List Byte × List Byte := (s.fcode, s.fvalue, s.fnote, s.flabel)

/-- A segment with the given payload. -/
def segmentOf (payload : List Byte) : Segment :=
  { label := [], note := [], targetHz := 0, data := payload }

/-- A running block whose segments have the given payloads. -/
def withParts (payloads : List (List Byte)) : State :=
  { State.reset with seg := payloads.map segmentOf }

/-- A block halted by `InvalidNote` (P4, step 12). -/
def haltedBlock : State :=
  { State.reset with fcode := 1, fvalue := 3, fnote := [0x63, 0x2D, 0x32], lay := [1], seg := [segmentOf [7]] }

/-! ### Well-formedness -/

theorem test_hexoff_index_too_wide : (Instr.hexoff (2 ^ 24)).wellFormed = false := by decide

theorem test_hexoff_largest_index : (Instr.hexoff (2 ^ 24 - 1)).wellFormed = true := by decide

/-! ### Decoding: words of the opcode map (R90, R91), written out bit by bit -/

theorem test_word_nop : decode 0b00000000_000000000000000000000000#32 = .ok .nop := by decide
theorem test_word_rate : decode 0b00000001_000000000000000000000000#32 = .ok .rate := by decide
theorem test_word_quant : decode 0b00000010_000000000000000000000000#32 = .ok .quant := by decide
theorem test_word_resamp : decode 0b00000011_000000000000000000000000#32 = .ok .resamp := by decide
theorem test_word_align : decode 0b00000100_000000000000000000000000#32 = .ok .align := by decide
theorem test_word_push : decode 0b00000101_000000000000000000000000#32 = .ok .push := by decide
theorem test_word_lsingle : decode 0b00000110_000000000000000000000000#32 = .ok .lsingle := by decide
theorem test_word_lstack : decode 0b00000111_000000000000000000000000#32 = .ok .lstack := by decide
theorem test_word_lequal : decode 0b00001000_000000000000000000000000#32 = .ok .lequal := by decide
theorem test_word_hexoff :
    decode 0b00001001_100000000000000000000011#32 = .ok (.hexoff 0x800003) := by decide
theorem test_word_hexslot : decode 0b00001010_000000000000000000000000#32 = .ok .hexslot := by decide
theorem test_word_ser : decode 0b00001011_000000000000000000000000#32 = .ok .ser := by decide
theorem test_word_conv : decode 0b00001100_000000000000000000000000#32 = .ok .conv := by decide
theorem test_word_clear : decode 0b00001110_000000000000000000000000#32 = .ok .clear := by decide
theorem test_word_reset : decode 0b00001111_000000000000000000000000#32 = .ok .reset := by decide

/-- P4 steps 18 and 20, and the single-command vectors of section 3. -/
theorem test_illegal_words :
    decode 0x0D000000 = .error .reservedOpcode ∧ decode 0x10000000 = .error .reservedOpcode ∧
    decode 0xFF000000 = .error .reservedOpcode ∧ decode 0x01000001 = .error .nonzeroArg ∧
    decode 0x0E000001 = .error .nonzeroArg := by decide

/-- The fifteen words, encoded. -/
theorem test_encode :
    [Instr.nop, .rate, .quant, .resamp, .align, .push, .lsingle, .lstack, .lequal, .hexoff 2,
      .hexslot, .ser, .conv, .clear, .reset].map encode
      = [0x00000000, 0x01000000, 0x02000000, 0x03000000, 0x04000000, 0x05000000, 0x06000000,
        0x07000000, 0x08000000, 0x09000002, 0x0A000000, 0x0B000000, 0x0C000000, 0x0E000000,
        0x0F000000] := by decide

/-- A placed word is the next thing the step runs. -/
theorem test_step_runs_placed_word :
    step (State.reset.withFetchWord 32 0x05000000) = exec .push State.reset := rfl

/-! ### Instructions, from spec/95_test_vectors.md -/

/-- NOP on a halted block: nothing changes (section 3). -/
theorem test_nop : got (exec .nop haltedBlock) id = some haltedBlock := by decide

/-- Section 2.1, first row, under T0. -/
theorem test_rate_c2 :
    (rateEffect Config.fixture { State.reset with note := [0x43, 0x2D, 0x32] }).dstHz = 8287 := by
  decide +kernel

/-- Section 2.1, second row: lower case does not match. -/
theorem test_rate_case :
    record (rateEffect Config.fixture { State.reset with note := [0x63, 0x2D, 0x32], dstHz := 5 })
      = (1, 3, [0x63, 0x2D, 0x32], []) := by decide +kernel

/-- Section 2.2, the row of eight samples. -/
theorem test_quant :
    got (exec .quant { State.reset with
      rs := [0, 256, 0xFF00, 0x7FFF, 0x8000, 255, 0xFFFF, 1000] }) State.q
      = some [128, 129, 127, 255, 0, 128, 127, 131] := by decide

/-- R145's worked example. -/
theorem test_resamp :
    got (exec .resamp { State.reset with inBuf := [10, 20, 30], srcHz := 2, dstHz := 3 }) State.rs
      = some [10, 10, 20, 30, 30] := by decide

/-- R151: an impulse at the last index is cut by the output length. -/
theorem test_resamp_last_impulse :
    got (exec .resamp { State.reset with inBuf := [0, 7], srcHz := 10, dstHz := 22 }) State.rs
      = some [0, 0, 0, 7] := by decide

/-- Section 2.3, lengths. -/
theorem test_outlen :
    outlen 44100 44100 8287 = 8287 ∧ outlen 1000 44100 8287 = 188 ∧ outlen 44100 48000 22050 = 20258 ∧
    outlen 3 2 3 = 5 ∧ outlen 1 2 1 = 1 := by decide

/-- R162's corner cases. -/
theorem test_align :
    ([0, 256, 257, 1200, 0xFFFFFF00] : List Word).map
      (fun n => got (exec .align { State.reset with areg := n }) State.areg)
      = [some 0, some 256, some 512, some 1280, some 0xFFFFFF00] := by decide

/-- Section 3: `ALIGN` above `LEN_MAX`. -/
theorem test_align_overflow :
    got (exec .align { State.reset with areg := 0xFFFFFF01 }) (fun t => (t.areg, record t))
      = some (0xFFFFFF01, 7, 4, [], []) := by decide

/-- P2: the segment is made of copies of the staging state. -/
theorem test_push :
    got (exec .push { State.reset with q := [0, 0, 128], dstHz := 3, label := [1], note := [2] })
      State.seg = some [{ label := [1], note := [2], targetHz := 3, data := [0, 0, 128] }] := by
  decide

/-- L5, L15. -/
theorem test_lsingle_count :
    got (exec .lsingle (withParts [])) record = some (6, 2, [], []) ∧
    got (exec .lsingle (withParts [[5], [5]])) record = some (6, 2, [], []) := by decide

/-- L7: 257 bytes are filled up to 512. -/
theorem test_lsingle :
    got (exec .lsingle (withParts [List.replicate 257 9]))
      (fun t => (t.offs, t.slot, t.lay.length, t.lay[256]?, t.lay[257]?))
      = some ([0], 0, 512, some 9, some 0) := by decide +kernel

/-- L12: empty segments share an offset with their successor. -/
theorem test_lstack :
    got (exec .lstack (withParts [[], [1, 2, 3, 4, 5], []])) (fun t => (t.offs, t.slot, t.lay.length))
      = some ([0, 0, 256], 0, 256) := by decide +kernel

/-- L1: W2A's lengths. -/
theorem test_lstack_w2a :
    got (exec .lstack (withParts [List.replicate 1200 1, List.replicate 800 2, List.replicate 400 3]))
      (fun t => (t.offs, t.slot, t.lay.length, t.lay[2079]?, t.lay[2080]?))
      = some ([0, 1280, 2304], 0, 2816, some 2, some 0) := by decide +kernel

/-- L13. -/
theorem test_lequal :
    got (exec .lequal (withParts [[], [1, 2, 3, 4, 5], []])) (fun t => (t.offs, t.slot, t.lay.length))
      = some ([0, 256, 512], 256, 768) := by decide +kernel

/-- L4: the degenerate case. -/
theorem test_lequal_empty :
    got (exec .lequal { withParts [] with lay := [1], offs := [0], slot := 256 })
      (fun t => (t.offs, t.slot, t.lay)) = some ([], 0, []) := by decide

/-- P3: page offsets after `LSTACK`, and an index past the last. -/
theorem test_hexoff :
    [0, 1, 2].map (fun i => got (exec (.hexoff i) { State.reset with offs := [0, 1280, 2304] })
      State.hex) = [some [0x30, 0x30], some [0x30, 0x35], some [0x30, 0x39]] := by decide

theorem test_hexoff_past_last :
    got (exec (.hexoff 3) { State.reset with offs := [0, 1280, 2304], hex := [0x30, 0x30] })
      (fun t => (t.hex, record t)) = some ([0x30, 0x30], 6, 3, [], []) := by decide

/-- R176, and R174's examples. -/
theorem test_hexslot :
    got (exec .hexslot { State.reset with slot := 1280 }) State.hex = some [0x30, 0x35] := by decide

theorem test_hex2 :
    hex2 0 = [0x30, 0x30] ∧ hex2 10 = [0x30, 0x41] ∧ hex2 255 = [0x46, 0x46] ∧
    hex2 256 = [0x31, 0x30, 0x30] ∧ hex2 0xFFFFFF = [0x46, 0x46, 0x46, 0x46, 0x46, 0x46] := by decide

/-- C3. -/
theorem test_ser_no_segment :
    record (serEffect Config.fixture State.reset) = (6, 4, [], []) := by decide

/-- C2: an even-length name and an odd payload. -/
theorem test_ser_container :
    (serEffect { Config.fixture with nameTag := [0x41, 0x42] }
      { State.reset with lay := [0x80], seg := [{ segmentOf [] with targetHz := 8287 }] }).out
      = [0x46, 0x4F, 0x52, 0x4D, 0x00, 0x00, 0x00, 0x33, 0x38, 0x53, 0x56, 0x58, 0x56, 0x48, 0x44,
        0x52] ++ [0x00, 0x00, 0x00, 0x14, 0, 0, 0, 0, 0, 0, 0, 0, 0, 0, 0, 0] ++
        [0x00, 0x00, 0x20, 0x5F, 0x00, 0x01, 0x00, 0x00, 0x4E, 0x41, 0x4D, 0x45, 0x00, 0x00, 0x00,
        0x02] ++ [0x41, 0x42, 0x42, 0x4F, 0x44, 0x59, 0x00, 0x00, 0x00, 0x01, 0x80] := by decide

/-- P1: the conversion, under T0. -/
theorem test_conv :
    (fun t : State => (t.dstHz, t.rs, t.q, t.seg.length))
      (convEffect Config.fixture { State.reset with
        inBuf := [0, 256, 0xFF00, 0x7FFF, 0x8000, 255, 0xFFFF, 1000], srcHz := 16574, chans := 1
        note := [0x43, 0x2D, 0x32] })
      = (8287, [0, 0xFF00, 0x8000, 0xFFFF], [0x80, 0x7F, 0, 0x7F], 1) := by decide +kernel

/-- P4, step 7: two channels are rejected first, and nothing is resampled. -/
theorem test_conv_non_mono :
    (fun t : State => (record t, t.rs, t.seg))
      (convEffect Config.fixture { State.reset with
        inBuf := [1, 2, 3, 4], srcHz := 8287, chans := 2, note := [0x63, 0x2D, 0x32], label := [0x73] })
      = ((2, 2, [0x63, 0x2D, 0x32], [0x73]), [], []) := by decide +kernel

/-- P4, step 13: `CLEAR` ends the halt and keeps the staging state. -/
theorem test_clear :
    got (exec .clear { haltedBlock with srcHz := 8287, note := [1] })
      (fun t => (t.fcode, t.seg, t.lay, t.srcHz, t.note)) = some (0, [], [], 8287, [1]) := by decide

/-- P4, step 21: `RESET` empties the staging state too. -/
theorem test_reset :
    got (exec .reset { haltedBlock with srcHz := 8287, note := [1], script := [.getOffs] })
      (fun t => (t.fcode, t.srcHz, t.note, t.script)) = some (0, 0, [], [.getOffs]) := by decide

/-- Section 3: a halted block ignores words, legal and not; `0E000001` is not `CLEAR`. -/
theorem test_halted_ignores :
    got (hostCommand 0x0E000001 haltedBlock) id = some haltedBlock ∧
    got (hostCommand 0xFF000000 haltedBlock) id = some haltedBlock ∧
    got (hostCommand 0x0B000000 haltedBlock) id = some haltedBlock := by decide

/-- Section 3: an illegal word on a running block. -/
theorem test_illegal_command :
    got (hostCommand 0x0E000001 { State.reset with note := [1] }) record
      = some (5, 0x0E000001, [1], []) := by decide

/-- Warning vectors: 65535 bytes raise none, 65536 do. -/
theorem test_warning :
    statusWord (withParts [List.replicate 65535 0]) = 0 ∧
    statusWord (withParts [List.replicate 65535 0, List.replicate 65536 0]) = 2 := by
  simp only [statusWord, warn, oversize, withParts, segmentOf, List.map_cons, List.map_nil,
    List.any_cons, List.any_nil, List.length_replicate, Config.oversizeLimit]
  decide

/-- 20_memory.md R64: low byte first. -/
theorem test_samples_of_bytes : samplesOfBytes [0x00, 0x80, 0x34, 0x12] = [0x8000, 0x1234] := by
  decide

/-- An odd length: the last single byte makes no sample (notes/assumptions/18.md). -/
theorem test_samples_of_odd_bytes : samplesOfBytes [0x34, 0x12, 0x56] = [0x1234] := by decide

/-- The script of P1 as a conversion run: ten operations and the read of `OUT`. -/
theorem test_conversion_run :
    (conversionRun [⟨[1], 1, 1, [0x43], []⟩] .lsingle).map
      (fun op => match op with | .command w => some w | _ => none)
      = [some 0x0E000000, none, none, none, none, none, some 0x0C000000, some 0x06000000,
        some 0x0B000000, none] := by decide

/-- R177 on W2A's stacked example: `b_00_05_09.8SVX`. -/
theorem test_suggested_name :
    suggestedName .stacked [0x62] [[0x30, 0x30], [0x30, 0x35], [0x30, 0x39]] []
      = [0x62, 0x5F, 0x30, 0x30, 0x5F, 0x30, 0x35, 0x5F, 0x30, 0x39, 0x2E, 0x38, 0x53, 0x56, 0x58] := by
  decide

/-! ### Witnesses: states and operands that meet the hypotheses of the obligations -/

/-- A running block with one staged sample at the rate of "C-2". -/
def staged : State :=
  { State.reset with inBuf := [5], srcHz := 8287, chans := 1, note := Config.keyC2, label := [0x61] }

/-- The table gives "C-2" 8287 Hz in every implementation (R7). -/
theorem rate_c2 : rateOf Config.params Config.keyC2 = some 8287 := by
  obtain ⟨e, he, hk, hr⟩ := Config.exists_keyC2
  rw [rateOf, ← hk, lookup_of_mem he, Option.map_some, hr]; rfl

theorem no_empty_key : ∀ e ∈ Config.params.noteRom, e.key ≠ [] :=
  fun _ he => (Config.noteRom_legal he).1

theorem test_witness_DecodeEncodeRoundTrip :
    (Instr.hexoff 0).wellFormed = true ∧ (Instr.hexoff (2 ^ 24 - 1)).wellFormed = true := by decide

theorem test_witness_EncodeDecodeRoundTrip : decode 0x09FFFFFF = .ok (.hexoff 0xFFFFFF) := by decide

/-- One word for each verdict of `DecodeVerdicts`, at the edges of the opcode ranges. -/
theorem test_witness_DecodeVerdicts :
    (0x09FFFFFF#32).toNat / 2 ^ 24 = 0x09 ∧ (0x00000000#32).toNat / 2 ^ 24 = 0x00 ∧
    (0x0F000000#32).toNat / 2 ^ 24 = 0x0F ∧ (0x0F000000#32).toNat % 2 ^ 24 = 0 ∧
    (0x0D000000#32).toNat / 2 ^ 24 = 0x0D ∧ (0x10000000#32).toNat / 2 ^ 24 = 0x10 ∧
    (0x0F000001#32).toNat % 2 ^ 24 ≠ 0 := by decide

theorem test_witness_StepRunsDecodedCommand :
    ({ State.reset with script := [.writeReg 0 0x05000000] } : State).script
      = .writeReg 0 0x05000000 :: [] ∧ decode 0x05000000 = .ok .push := by decide

theorem test_witness_IllegalWordFaults :
    State.reset.fcode = 0 ∧ decode 0x01000001 = .error .nonzeroArg := by decide

theorem test_witness_HaltedBlockIgnoresWords :
    haltedBlock.fcode ≠ 0 ∧ (0x0B000000 : Word) ≠ 0x0E000000 ∧ (0x0B000000 : Word) ≠ 0x0F000000 ∧
    endsRun (.writeReg 5 1) = false ∧
    hostOp (.writeReg 5 1) haltedBlock = .next { haltedBlock with chans := 1 } :=
  ⟨by decide, by decide, by decide, by decide, rfl⟩

theorem test_witness_IdleBlockWaits : State.reset.script = [] := rfl

/-- `PUSH` on a running block, and a faulting `LSINGLE`. -/
theorem test_witness_CommandWritesOnlyItsRow :
    exec .push staged = .next (appendSegment (stagedSegment staged) staged) := rfl

theorem test_witness_FaultWritesOnlyTheRecord :
    State.reset.fcode = 0 ∧ exec .lsingle State.reset = .next (raise .badOperand 2 State.reset) ∧
    (raise .badOperand 2 State.reset).fcode ≠ 0 := ⟨rfl, rfl, by decide⟩

theorem test_witness_CommandsIdempotent :
    Instr.align ≠ .push ∧ Instr.align ≠ .conv ∧
    exec .align { State.reset with areg := 257 } = .next { State.reset with areg := 512 } :=
  ⟨by decide, by decide, rfl⟩

theorem test_witness_CommandsIgnoreHostSide :
    exec .quant { State.reset with rs := [0] } = .next { State.reset with rs := [0], q := [128] } :=
  rfl

theorem test_witness_LabelsNeverInfluence :
    staged.label ≠ [] ∧ exec .push staged = .next (appendSegment (stagedSegment staged) staged) :=
  ⟨by decide, rfl⟩

/-- A key of the table, and a string that is none. -/
theorem test_witness_RateDefinedOnTableKeys :
    (∃ e, e ∈ Config.params.noteRom) ∧ ∃ k, ∀ e ∈ Config.params.noteRom, e.key ≠ k :=
  ⟨Config.exists_keyC2.imp fun _ h => h.1, [], no_empty_key⟩

theorem test_witness_RateLooksUpTheNote :
    staged.fcode = 0 ∧ (∃ e ∈ Config.params.noteRom, e.key = staged.note) ∧
    State.reset.fcode = 0 ∧ ∀ e ∈ Config.params.noteRom, e.key ≠ State.reset.note :=
  ⟨rfl, Config.exists_keyC2.imp fun _ h => ⟨h.1, h.2.1⟩, rfl, no_empty_key⟩

theorem test_witness_NoteC2Is8287 : staged.fcode = 0 ∧ staged.note = [0x43, 0x2D, 0x32] := by decide

theorem test_witness_QuantBiasesAndShifts :
    ({ State.reset with rs := [0x8000, 0x7FFF] } : State).fcode = 0 ∧
    ({ State.reset with rs := [0x8000, 0x7FFF] } : State).rs[1]? = some 0x7FFF := by decide

/-- A `RESAMP` state from a length and two rates. -/
def resampling (len : Nat) (src dst : Word) : State :=
  { State.reset with inBuf := List.replicate len 0, srcHz := src, dstHz := dst }

/-- The four clauses of `ResampChecksThenResamples`; the third and fourth at `LEN_MAX + 1` and
`LEN_MAX`. -/
theorem test_witness_ResampChecksThenResamples :
    (resampling 1 0 1).srcHz = 0 ∧
    ((resampling 1 7 7).srcHz ≠ 0 ∧ (resampling 1 7 7).srcHz = (resampling 1 7 7).dstHz) ∧
    ((resampling 1 1 0xFFFFFF01).srcHz ≠ (resampling 1 1 0xFFFFFF01).dstHz ∧
      2 ^ 32 - 256 < (2 * (resampling 1 1 0xFFFFFF01).inBuf.length * 0xFFFFFF01 + 1) / (2 * 1)) ∧
    ((resampling 1 1 0xFFFFFF00).srcHz ≠ (resampling 1 1 0xFFFFFF00).dstHz ∧
      (2 * (resampling 1 1 0xFFFFFF00).inBuf.length * 0xFFFFFF00 + 1) / (2 * 1) ≤ 2 ^ 32 - 256) := by
  decide

theorem test_witness_ZohClosedForm :
    1 ≤ 2 ∧ 2 ≠ 3 ∧ 5 = (2 * ([10, 20, 30] : List Sample).length * 3 + 2) / (2 * 2) ∧ 4 < 5 := by
  decide

theorem test_witness_ZohHoldsInputSamples : 1 ≤ 2 ∧ (30 : Sample) ∈ zoh [10, 20, 30] 2 3 := by decide

theorem test_witness_AccumulatorStep :
    2 ^ 32 - 1 < 2 ^ 32 ∧ 2 ^ 32 - 2 < 2 ^ 32 - 1 ∧ 0 ≤ 0 := by decide

theorem test_witness_FastPathAgreesWithLoop : 1 ≤ 1 := by decide

/-- An impulse inside the input, and one at its end. -/
theorem test_witness_ImpulseLaw :
    (2 < 5 ∧ 8 = (2 * ([0, 9, 0] : List Sample).length * 5 + 2) / (2 * 2) ∧
      ([0, 9, 0] : List Sample)[1]? = some 9 ∧ 1 + 2 ≤ ([0, 9, 0] : List Sample).length) ∧
    (10 < 22 ∧ 4 = (2 * ([0, 7] : List Sample).length * 22 + 10) / (2 * 10) ∧
      ([0, 7] : List Sample)[1]? = some 7 ∧
      ∀ k y, ([0, 7] : List Sample)[k]? = some y → k ≠ 1 → y = 0) := by
  refine ⟨by decide, by decide, by decide, by decide, ?_⟩
  rintro (_ | _ | k) y h hk
  · simpa using h.symm
  · exact absurd rfl hk
  · simp at h

/-- Both operands at `LEN_MAX`, and a pair in order below it. -/
theorem test_witness_AlignLaws :
    2 ^ 32 - 256 ≤ 2 ^ 32 - 256 ∧ 256 ≤ 2 ^ 32 - 256 ∧ 257 ≤ 2 ^ 32 - 256 ∧ 256 ≤ 257 := by decide

/-- Both sides of the edge `0xFFFFFF00`. -/
theorem test_witness_AlignRoundsUp :
    (0xFFFFFF00#32).toNat ≤ 0xFFFFFF00 ∧ 0xFFFFFF00 < (0xFFFFFF01#32).toNat := by decide

/-- A full table, and room for one oversize segment. -/
theorem test_witness_PushAppendsStagedSegment :
    Config.segMax ≤ ({ staged with seg := List.replicate (2 ^ 24) (segmentOf []) } : State).seg.length ∧
    ({ staged with seg := List.replicate (2 ^ 24 - 1) (segmentOf []) } : State).seg.length < Config.segMax ∧
    65535 < ({ staged with q := List.replicate 65536 0 } : State).q.length := by
  simp only [List.length_replicate]; decide

theorem test_witness_LsingleLaysOutOneSegment :
    (withParts [[5]]).seg = [segmentOf [5]] ∧ (withParts []).seg.length ≠ 1 ∧
    (withParts [[5], [5]]).seg.length ≠ 1 := by decide

/-- A layout of exactly `LEN_MAX` bytes, and one of `2^32` (section 3). -/
theorem test_witness_LstackLaysOutBackToBack :
    ((withParts [List.replicate (2 ^ 32 - 256) 0]).seg.map fun g => align g.data.length).sum
      ≤ 2 ^ 32 - 256 ∧
    2 ^ 32 - 256
      < ((withParts [List.replicate (2 ^ 31) 0, List.replicate (2 ^ 31) 0]).seg.map
          fun g => align g.data.length).sum := by
  simp only [withParts, segmentOf, List.map_cons, List.map_nil, List.length_replicate, List.sum_cons,
    List.sum_nil, align]
  decide

theorem test_witness_LequalLaysOutEqualSlots :
    (withParts [List.replicate (2 ^ 32 - 256) 0]).seg.length *
      ((withParts [List.replicate (2 ^ 32 - 256) 0]).seg.map
        fun g => align g.data.length).foldr max 0 ≤ 2 ^ 32 - 256 ∧
    2 ^ 32 - 256 < (withParts [List.replicate (2 ^ 31) 0, []]).seg.length *
      ((withParts [List.replicate (2 ^ 31) 0, []]).seg.map
        fun g => align g.data.length).foldr max 0 := by
  simp only [withParts, segmentOf, List.map_cons, List.map_nil, List.length_replicate,
    List.length_cons, List.length_nil, List.foldr_cons, List.foldr_nil, align]
  decide

theorem test_witness_LayoutInvariants :
    (withParts [[1], [2]]).fcode = 0 ∧
    exec .lstack (withParts [[1], [2]])
      = .next (storeLayout (stackedFrom 0 [[1], [2]]).1 (stackedFrom 0 [[1], [2]]).2 0
          (withParts [[1], [2]])) ∧
    (storeLayout (stackedFrom 0 [[1], [2]]).1 (stackedFrom 0 [[1], [2]]).2 0
      (withParts [[1], [2]])).fcode = 0 := ⟨rfl, rfl, rfl⟩

/-- The last entry, and the index after it. -/
theorem test_witness_HexoffWritesPageOffset :
    2 ^ 24 - 1 < 2 ^ 24 ∧
    ({ State.reset with offs := [0, 1280] } : State).offs[1]? = some 1280 ∧
    ({ State.reset with offs := [0, 1280] } : State).offs.length ≤ 2 := by decide

theorem test_witness_HexslotWritesIncrement :
    ({ State.reset with slot := 1280 } : State).fcode = 0 := rfl

theorem test_witness_HexTextIsCanonical :
    2 ^ 24 - 1 < 2 ^ 24 ∧ 2 < (hex2 256).length ∧ ¬ 2 < (hex2 255).length := by decide

theorem test_witness_ContainerFields :
    4 = ([0x54, 0x41, 0x47] : List Byte).length + ([0x54, 0x41, 0x47] : List Byte).length % 2 ∧
    1 = ([0x80] : List Byte).length ∧ 48 + 4 + 1 ≤ 2 ^ 32 - 1 := by decide

/-- No segment; a payload beyond the size field; a payload with room whatever the name. -/
theorem test_witness_SerChecksThenSerializes :
    (withParts []).seg = [] ∧ (withParts [[1]]).seg = segmentOf [1] :: [] ∧
    (∀ n, 2 ^ 32 - 1
      < 48 + n + ({ withParts [[1]] with lay := List.replicate (2 ^ 32) 0 } : State).lay.length) ∧
    48 + (Config.params.nameTag.length + Config.params.nameTag.length % 2)
      + ({ withParts [[1]] with lay := [1] } : State).lay.length ≤ 2 ^ 32 - 1 := by
  refine ⟨rfl, rfl, fun n => ?_, ?_⟩
  · simp only [List.length_replicate]; omega
  · have := Config.nameTag_length_le
    simp only [List.length_singleton]; omega

theorem test_witness_ContainerSeesOnlyFirstRate :
    (withParts [[1]]).fcode = 0 ∧ (withParts [[1]]).seg = segmentOf [1] :: [] ∧
    (withParts [[2], [3]]).seg = segmentOf [2] :: [segmentOf [3]] ∧
    (segmentOf [1]).targetHz = (segmentOf [2]).targetHz ∧
    (withParts [[1]]).lay = (withParts [[2], [3]]).lay ∧
    (withParts [[1]]).lay.length ≤ 2 ^ 32 - 1 - 302 := by decide

/-- The seven ends of `CONV`, each reached: the overflow by `2^20` samples at 1 Hz, the full table on
the fast path. -/
theorem test_witness_ConvChecksThenConverts :
    ({ staged with chans := 2 } : State).chans ≠ 1 ∧ ({ staged with inBuf := [] } : State).inBuf = [] ∧
    (∀ e ∈ Config.params.noteRom, e.key ≠ ({ staged with note := [] } : State).note) ∧
    (∃ e ∈ Config.params.noteRom, e.key = staged.note ∧
      (8287 : Word).toNat = Config.params.clockHz / e.period) ∧
    ({ staged with srcHz := 0 } : State).srcHz = 0 ∧
    2 ^ 32 - 256 < (2 * (List.replicate (2 ^ 20) (0 : Sample)).length * (8287 : Word).toNat + 1)
      / (2 * 1) ∧
    (staged.chans = 1 ∧ staged.inBuf ≠ [] ∧ staged.srcHz ≠ 0 ∧ staged.srcHz = 8287 ∧
      staged.seg.length < Config.segMax) ∧
    Config.segMax ≤ ({ staged with seg := List.replicate (2 ^ 24) (segmentOf []) } : State).seg.length := by
  refine ⟨by decide, rfl, no_empty_key,
    Config.exists_keyC2.imp fun _ h => ⟨h.1, h.2.1, h.2.2.symm⟩, rfl, ?_, by decide, ?_⟩ <;>
    simp only [List.length_replicate] <;> decide

theorem test_witness_ConvIsTheFourUnits :
    staged.fcode = 0 ∧ exec .conv staged = .next (convert 8287 staged) ∧
    (convert 8287 staged).fcode = 0 := by
  refine ⟨rfl, ?_, rfl⟩
  rw [exec_running _ rfl]
  simp only [effect, convEffect, show staged.note = Config.keyC2 from rfl, rate_c2]
  rfl

theorem test_witness_RegisterMapReads : Inv State.reset ∧ 19 ≤ 19 :=
  ⟨⟨reset_wf, by decide, by simp [layoutAligned, State.reset]⟩, le_refl _⟩

theorem test_witness_StatusBits :
    haltedBlock.fcode ≠ 0 ∧
    ∃ g ∈ (withParts [List.replicate 65536 0]).seg, 65535 < g.data.length := by
  refine ⟨by decide, segmentOf (List.replicate 65536 0), List.mem_singleton.2 rfl, ?_⟩
  simp only [segmentOf, List.length_replicate]; decide

/-- A selected segment with an offset, and an index beyond both lists. -/
theorem test_witness_SegmentWindow :
    Memory.wf { withParts [[1]] with offs := [0] } ∧
    ({ withParts [[1]] with offs := [0] } : State).seg[0]? = some (segmentOf [1]) ∧
    ({ withParts [[1]] with offs := [0] } : State).offs[0]? = some 0 ∧
    ({ withParts [[1]] with offs := [0], segSel := 1 } : State).seg.length ≤ 1 ∧
    ({ withParts [[1]] with offs := [0], segSel := 1 } : State).offs.length ≤ 1 := by decide

/-- The five writable registers, and numbers on both sides of them. -/
theorem test_witness_HostRegisterWrites :
    (∀ r ∈ [4, 5, 6, 7, 11], r ≠ 0) ∧
    ∀ r ∈ [1, 2, 3, 8, 9, 10, 12, 18, 19], r ≠ 0 ∧ r ∉ [4, 5, 6, 7, 11] := by decide

theorem test_witness_HostReadsChangeNothing :
    (∃ b, HostOp.getBytes .lay = .getBytes b ∧ Reply.bytes [1] = .bytes (bytesOf b haltedBlock)) ∧
    (∃ b, HostOp.getSamples .inBuf = .getSamples b ∧
      Reply.samples [5] = .samples (samplesOf b staged)) ∧
    (∃ i g, HostOp.getSeg 0 = .getSeg i ∧ haltedBlock.seg[i]? = some g ∧
      Reply.segment (segmentOf [7]) = .segment g) ∧
    Reply.offsets [] = .offsets haltedBlock.offs ∧
    ∃ r, HostOp.readReg 3 = .readReg r ∧ Reply.register 3 = .register (readReg r haltedBlock) :=
  ⟨⟨_, rfl, rfl⟩, ⟨_, rfl, rfl⟩, ⟨_, _, rfl, rfl, rfl⟩, rfl, ⟨_, rfl, rfl⟩⟩

/-- A string of exactly the limit, and one buffer of samples. -/
theorem test_witness_HostSetReplacesOneBuffer :
    ByteBuf.note ∈ [ByteBuf.note, .label, .q, .lay] ∧
    (List.replicate 255 (0 : Byte)).length ≤ byteLimit .note ∧
    ([1, 2] : List Sample).length ≤ 2 ^ 32 - 256 := by
  simp only [List.length_replicate]; decide

theorem test_witness_LittleEndianSamples :
    ([0x00, 0x80, 0x34, 0x12] : List Byte)[2 * 1]? = some 0x34 ∧
    ([0x00, 0x80, 0x34, 0x12] : List Byte)[2 * 1 + 1]? = some 0x12 := by decide

theorem test_witness_UnitContractScripts :
    State.reset.fcode = 0 ∧ (∃ e, e ∈ Config.params.noteRom) ∧
    ([1, 2] : List Sample).length ≤ 2 ^ 32 - 256 ∧ (2 : Word) ≠ 0 ∧
    resampleOverflows 3 2 3 = false ∧ (257 : Word).toNat ≤ 2 ^ 32 - 256 :=
  ⟨rfl, Config.exists_keyC2.imp fun _ h => h.1, by decide, by decide, by decide, by decide⟩

theorem test_witness_BuildStackedScript :
    (∀ p ∈ ([[1], [2]] : List (List Byte)), p.length ≤ 2 ^ 32 - 256) ∧
    ([[1], [2]] : List (List Byte)).length ≤ 2 ^ 24 ∧
    (([[1], [2]] : List (List Byte)).map fun p => align p.length).sum ≤ 2 ^ 32 - 256 := by decide

/-- One operation that ends the halt, and one that does not. -/
theorem test_witness_HaltEndsOnlyByClearOrReset :
    haltedBlock.fcode ≠ 0 ∧ endsRun (.writeReg 0 0x0E000000) = true ∧
    hostOp (.writeReg 0 0x0E000000) haltedBlock = .next (clearRun haltedBlock) ∧
    endsRun (.command 0x0E000001) = false ∧
    hostOp (.command 0x0E000001) haltedBlock = .next haltedBlock :=
  ⟨by decide, by decide, rfl, by decide, rfl⟩

theorem test_witness_FirstFaultStays :
    haltedBlock.fcode ≠ 0 ∧
    hostOp (.writeReg 5 1) haltedBlock = .next { haltedBlock with chans := 1 } ∧
    ({ haltedBlock with chans := 1 } : State).fcode ≠ 0 := ⟨by decide, rfl, by decide⟩

theorem test_witness_SegmentsOnlyAppended :
    hostOp (.command 0x05000000) staged
      = .next (appendSegment (stagedSegment staged) staged) := rfl

/-- A warned block that pushes, and an unwarned one that pushes an oversize payload. -/
theorem test_witness_WarningFollowsSegments :
    warn (withParts [List.replicate 65536 0]) = true ∧ warn staged = false ∧
    hostOp (.command 0x05000000) { staged with q := List.replicate 65536 0 }
      = .next (appendSegment (stagedSegment { staged with q := List.replicate 65536 0 })
          { staged with q := List.replicate 65536 0 }) ∧
    warn (appendSegment (stagedSegment { staged with q := List.replicate 65536 0 })
      { staged with q := List.replicate 65536 0 }) = true := by
  refine ⟨?_, by decide, rfl, ?_⟩
  · simp only [warn, oversize, withParts, segmentOf, List.map_cons, List.map_nil, List.any_cons,
      List.any_nil, List.length_replicate, Config.oversizeLimit]
    decide
  · simp only [warn, oversize, appendSegment, stagedSegment, List.any_append, List.any_cons,
      List.any_nil, List.length_replicate, Config.oversizeLimit]
    decide

theorem test_witness_StepKeepsInvariant :
    Inv { State.reset with script := [.command 0x05000000] } ∧
    step { State.reset with script := [.command 0x05000000] }
      = .next (appendSegment (stagedSegment State.reset) State.reset) :=
  ⟨⟨reset_wf, by decide, by simp [layoutAligned, State.reset]⟩, rfl⟩

end Sys2Proof.Tests
end

/-!
PROOFS. The statements of 00_scope.md: no command meets the host's side of the interface (R2), and
the one rate W2A prints (R7).
-/

namespace Sys2Proof.Machine

/-! ### The host's side of the state (R25)

Every effect commutes with a change of the host's two fields: its checks read the block alone, and
each of its outcomes writes the block alone. -/

/-- The same block before a host that plans `script` and was last given `reply`. -/
def withHostSide (script : List HostOp) (reply : Option Reply) (s : State) : State :=
  { s with script := script, reply := reply }

section
variable (script : List HostOp) (reply : Option Reply) (p : Config.Params) (s : State)

@[simp] theorem withHostSide_fcode : (withHostSide script reply s).fcode = s.fcode := rfl
@[simp] theorem withHostSide_note : (withHostSide script reply s).note = s.note := rfl
@[simp] theorem withHostSide_seg : (withHostSide script reply s).seg = s.seg := rfl
@[simp] theorem withHostSide_offs : (withHostSide script reply s).offs = s.offs := rfl

theorem rateEffect_withHostSide :
    rateEffect p (withHostSide script reply s) = withHostSide script reply (rateEffect p s) := by
  simp only [rateEffect, withHostSide_note]
  cases rateOf p s.note <;> rfl

theorem resampEffect_withHostSide :
    resampEffect (withHostSide script reply s) = withHostSide script reply (resampEffect s) := by
  simp only [resampEffect, apply_ite (withHostSide script reply)]
  rfl

theorem alignEffect_withHostSide :
    alignEffect (withHostSide script reply s) = withHostSide script reply (alignEffect s) := by
  simp only [alignEffect, apply_ite (withHostSide script reply)]
  rfl

theorem pushEffect_withHostSide :
    pushEffect (withHostSide script reply s) = withHostSide script reply (pushEffect s) := by
  simp only [pushEffect, apply_ite (withHostSide script reply)]
  rfl

theorem lsingleEffect_withHostSide :
    lsingleEffect (withHostSide script reply s) = withHostSide script reply (lsingleEffect s) := by
  simp only [lsingleEffect, withHostSide_seg]
  rcases s.seg with _ | ⟨g, _ | ⟨g', gs⟩⟩ <;> rfl

theorem lstackEffect_withHostSide :
    lstackEffect (withHostSide script reply s) = withHostSide script reply (lstackEffect s) := by
  simp only [lstackEffect, apply_ite (withHostSide script reply)]
  rfl

theorem lequalEffect_withHostSide :
    lequalEffect (withHostSide script reply s) = withHostSide script reply (lequalEffect s) := by
  simp only [lequalEffect, apply_ite (withHostSide script reply)]
  rfl

theorem hexoffEffect_withHostSide (idx : Nat) :
    hexoffEffect idx (withHostSide script reply s)
      = withHostSide script reply (hexoffEffect idx s) := by
  simp only [hexoffEffect, withHostSide_offs]
  cases s.offs[idx]? <;> rfl

theorem serEffect_withHostSide :
    serEffect p (withHostSide script reply s) = withHostSide script reply (serEffect p s) := by
  simp only [serEffect, withHostSide_seg]
  cases s.seg with
  | nil => rfl
  | cons g gs => simp only [apply_ite (withHostSide script reply)]; rfl

theorem convEffect_withHostSide :
    convEffect p (withHostSide script reply s) = withHostSide script reply (convEffect p s) := by
  simp only [convEffect, apply_ite (withHostSide script reply), withHostSide_note]
  cases rateOf p s.note with
  | none => rfl
  | some d => simp only [apply_ite (withHostSide script reply)]; rfl

/-- What a command does to a block that executes it is the same before every host (R2). -/
theorem effect_withHostSide (i : Instr) :
    effect i (withHostSide script reply s) = withHostSide script reply (effect i s) := by
  cases i with
  | nop => rfl
  | rate => exact rateEffect_withHostSide script reply Config.params s
  | quant => rfl
  | resamp => exact resampEffect_withHostSide script reply s
  | align => exact alignEffect_withHostSide script reply s
  | push => exact pushEffect_withHostSide script reply s
  | lsingle => exact lsingleEffect_withHostSide script reply s
  | lstack => exact lstackEffect_withHostSide script reply s
  | lequal => exact lequalEffect_withHostSide script reply s
  | hexoff idx => exact hexoffEffect_withHostSide script reply s idx
  | hexslot => rfl
  | ser => exact serEffect_withHostSide script reply Config.params s
  | conv => exact convEffect_withHostSide script reply Config.params s
  | clear => rfl
  | reset => rfl

end

/-- Settles O14: whether a command executes is read off the fault code, and what it then does
commutes with a change of the host's side. -/
theorem commandsIgnoreHostSide : Obligations.CommandsIgnoreHostSide := by
  intro i s t script reply h
  change exec i (withHostSide script reply s) = .next (withHostSide script reply t)
  rw [exec_eq] at h ⊢
  cases h
  rw [withHostSide_fcode, effect_withHostSide, apply_ite (withHostSide script reply)]

/-! ### The rate of a key -/

/-- A key of the implementation's table has the clock divided by its period as its rate (R121). -/
theorem rateOf_of_mem {e : Config.NoteEntry} (he : e ∈ Config.params.noteRom) :
    rateOf Config.params e.key = some (BitVec.ofNat 32 (Config.params.clockHz / e.period)) := by
  simp [rateOf, lookup_of_mem he]

/-- `RATE` stores the rate that the table gives for `NOTE` (R122). -/
theorem rateEffect_of_rateOf {p : Config.Params} {s : State} {r : Word}
    (h : rateOf p s.note = some r) : rateEffect p s = { s with dstHz := r } := by
  simp [rateEffect, h]

/-- In every implementation "C-2" is 8287 Hz (R7). -/
theorem rateOf_keyC2 : rateOf Config.params Config.keyC2 = some 8287 := by
  obtain ⟨e, he, hkey, hrate⟩ := Config.exists_keyC2
  rw [← hkey, rateOf_of_mem he, hrate]
  rfl

/-- Settles O18: a legal table holds "C-2" at 8287 Hz, and `RATE` stores what the table gives. -/
theorem noteC2Is8287 : Obligations.NoteC2Is8287 := by
  intro s hrun hnote
  have hrate : rateOf Config.params s.note = some 8287 := hnote ▸ rateOf_keyC2
  rw [exec_running .rate hrun]
  exact congrArg Host.Outcome.next (rateEffect_of_rateOf hrate)

end Sys2Proof.Machine

/-!
PROOFS. The statements of 10_state.md: labels (R33), the segment table and the warning (R32, R35,
R29), the registers, the buffers and reset (R20 to R37, R50), and the invariant that every step keeps.
-/

namespace Sys2Proof.Machine

/-! ### Labels take part in no computation (R33)

Every effect commutes with erasing the labels: its checks read no label, a fault entry copies one
from label to label, and a new segment takes one from `LABEL`. -/

section
variable (p : Config.Params) (s : State)

@[simp] theorem eraseLabels_fcode : (eraseLabels s).fcode = s.fcode := rfl
@[simp] theorem eraseLabels_note : (eraseLabels s).note = s.note := rfl
@[simp] theorem eraseLabels_offs : (eraseLabels s).offs = s.offs := rfl
@[simp] theorem eraseLabels_seg :
    (eraseLabels s).seg = s.seg.map fun g => { g with label := [] } := rfl

@[simp] theorem parts_eraseLabels : parts (eraseLabels s) = parts s := by simp [parts]

theorem appendSegment_eraseLabels (g : Segment) :
    appendSegment { g with label := [] } (eraseLabels s) = eraseLabels (appendSegment g s) := by
  simp [appendSegment, eraseLabels]

theorem convert_eraseLabels (d : Word) :
    convert d (eraseLabels s) = eraseLabels (convert d s) := by
  simp [convert, eraseLabels]

theorem rateEffect_eraseLabels :
    rateEffect p (eraseLabels s) = eraseLabels (rateEffect p s) := by
  simp only [rateEffect, eraseLabels_note]
  cases rateOf p s.note <;> rfl

theorem resampEffect_eraseLabels :
    resampEffect (eraseLabels s) = eraseLabels (resampEffect s) := by
  simp only [resampEffect, apply_ite eraseLabels]
  rfl

theorem alignEffect_eraseLabels : alignEffect (eraseLabels s) = eraseLabels (alignEffect s) := by
  simp only [alignEffect, apply_ite eraseLabels]
  rfl

theorem pushEffect_eraseLabels : pushEffect (eraseLabels s) = eraseLabels (pushEffect s) := by
  simp only [pushEffect, apply_ite eraseLabels, ← appendSegment_eraseLabels, eraseLabels_seg,
    List.length_map]
  rfl

theorem lsingleEffect_eraseLabels :
    lsingleEffect (eraseLabels s) = eraseLabels (lsingleEffect s) := by
  simp only [lsingleEffect, eraseLabels_seg]
  rcases s.seg with _ | ⟨g, _ | ⟨g', gs⟩⟩ <;> rfl

theorem lstackEffect_eraseLabels :
    lstackEffect (eraseLabels s) = eraseLabels (lstackEffect s) := by
  simp only [lstackEffect, apply_ite eraseLabels, parts_eraseLabels]
  rfl

theorem lequalEffect_eraseLabels :
    lequalEffect (eraseLabels s) = eraseLabels (lequalEffect s) := by
  simp only [lequalEffect, apply_ite eraseLabels, parts_eraseLabels, eraseLabels_seg,
    List.length_map]
  rfl

theorem hexoffEffect_eraseLabels (idx : Nat) :
    hexoffEffect idx (eraseLabels s) = eraseLabels (hexoffEffect idx s) := by
  simp only [hexoffEffect, eraseLabels_offs]
  cases s.offs[idx]? <;> rfl

theorem serEffect_eraseLabels : serEffect p (eraseLabels s) = eraseLabels (serEffect p s) := by
  simp only [serEffect, eraseLabels_seg]
  cases s.seg with
  | nil => rfl
  | cons g gs => simp only [List.map_cons, apply_ite eraseLabels]; rfl

theorem convEffect_eraseLabels :
    convEffect p (eraseLabels s) = eraseLabels (convEffect p s) := by
  simp only [convEffect, apply_ite eraseLabels, eraseLabels_note]
  cases rateOf p s.note with
  | none => rfl
  | some d =>
    simp only [apply_ite eraseLabels, ← convert_eraseLabels, eraseLabels_seg, List.length_map]
    rfl

/-- What a command does to a block that executes it is the same under every labelling (R33). -/
theorem effect_eraseLabels (i : Instr) : effect i (eraseLabels s) = eraseLabels (effect i s) := by
  cases i with
  | nop => rfl
  | rate => exact rateEffect_eraseLabels Config.params s
  | quant => rfl
  | resamp => exact resampEffect_eraseLabels s
  | align => exact alignEffect_eraseLabels s
  | push => exact pushEffect_eraseLabels s
  | lsingle => exact lsingleEffect_eraseLabels s
  | lstack => exact lstackEffect_eraseLabels s
  | lequal => exact lequalEffect_eraseLabels s
  | hexoff idx => exact hexoffEffect_eraseLabels s idx
  | hexslot => rfl
  | ser => exact serEffect_eraseLabels Config.params s
  | conv => exact convEffect_eraseLabels Config.params s
  | clear => rfl
  | reset => rfl

end

/-- Settles O15: whether a command executes is read off the fault code, and what it then does
commutes with erasing the labels. -/
theorem labelsNeverInfluence : Obligations.LabelsNeverInfluence := by
  intro i s t h
  rw [exec_eq] at h ⊢
  cases h
  rw [eraseLabels_fcode, effect_eraseLabels, apply_ite eraseLabels]

/-! ### The segment table (R32, R35) -/

/-- Only commands without an argument stand in the opcode map, each at its opcode (R91). -/
theorem plainCommand_eq_some {op : Nat} {i : Instr} (h : plainCommand op = some i) :
    op = opcode i ∧ argument i = 0 := by
  unfold plainCommand at h
  split at h <;> cases h <;> exact ⟨rfl, rfl⟩

/-- A word is its opcode field followed by its argument field (R90). -/
theorem toNat_eq_fields (w : Word) : w.toNat = opField w * 2 ^ 24 + argField w := by
  have := w.isLt
  simp only [opField, argField, BitVec.extractLsb'_toNat, Nat.shiftRight_eq_div_pow]
  omega

/-- A word that decodes to a command is that command's opcode and argument (R91, R95). -/
theorem toNat_of_decode {w : Word} {i : Instr} (h : decode w = .ok i) :
    w.toNat = opcode i * 2 ^ 24 + argument i := by
  rw [toNat_eq_fields]
  unfold decode at h
  split at h
  · next hop => cases h; rw [hop]; rfl
  · split at h
    · cases h
    · next hplain =>
      split_ifs at h with hzero
      cases h
      obtain ⟨hcode, harg⟩ := plainCommand_eq_some hplain
      rw [hcode, harg, hzero]

/-- A command leaves the table, appends one segment, or empties it (R32). -/
theorem effect_seg_cases (i : Instr) (s : State) :
    (effect i s).seg = s.seg ∨
    ((i = .push ∨ i = .conv) ∧ ∃ g, (effect i s).seg = s.seg ++ [g]) ∨
    ((i = .clear ∨ i = .reset) ∧ (effect i s).seg = []) := by
  cases i with
  | nop => exact .inl rfl
  | rate =>
    obtain ⟨-, h⟩ | ⟨r, -, h⟩ := rateEffect_cases Config.params s <;>
      exact .inl (congrArg State.seg h :)
  | quant => exact .inl rfl
  | resamp =>
    obtain ⟨-, h⟩ | ⟨-, -, h⟩ | ⟨-, -, h⟩ := resampEffect_cases s <;>
      exact .inl (congrArg State.seg h :)
  | align =>
    obtain ⟨-, h⟩ | ⟨-, h⟩ := alignEffect_cases s <;> exact .inl (congrArg State.seg h :)
  | push =>
    obtain ⟨-, h⟩ | ⟨-, h⟩ := pushEffect_cases s
    · exact .inl (congrArg State.seg h :)
    · exact .inr (.inl ⟨.inl rfl, stagedSegment s, (congrArg State.seg h :)⟩)
  | lsingle =>
    obtain ⟨-, h⟩ | ⟨g, -, h⟩ := lsingleEffect_cases s <;> exact .inl (congrArg State.seg h :)
  | lstack =>
    obtain ⟨-, h⟩ | ⟨-, h⟩ := lstackEffect_cases s <;> exact .inl (congrArg State.seg h :)
  | lequal =>
    obtain ⟨-, h⟩ | ⟨-, h⟩ := lequalEffect_cases s <;> exact .inl (congrArg State.seg h :)
  | hexoff idx =>
    obtain ⟨-, h⟩ | ⟨o, -, h⟩ := hexoffEffect_cases idx s <;> exact .inl (congrArg State.seg h :)
  | hexslot => exact .inl rfl
  | ser =>
    obtain ⟨-, h⟩ | ⟨-, -, h⟩ | ⟨g, gs, -, -, h⟩ := serEffect_cases Config.params s <;>
      exact .inl (congrArg State.seg h :)
  | conv =>
    obtain ⟨f, v, h⟩ | ⟨d, -, -, -, -, -, -, h⟩ := convEffect_cases Config.params s
    · exact .inl (congrArg State.seg h :)
    · exact .inr (.inl ⟨.inr rfl, _, (congrArg State.seg h :)⟩)
  | clear => exact .inr (.inr ⟨.inl rfl, rfl⟩)
  | reset => exact .inr (.inr ⟨.inr rfl, rfl⟩)

@[simp] theorem storeBytes_seg (b : ByteBuf) (bytes : List Byte) (s : State) :
    (storeBytes b bytes s).seg = s.seg := by cases b <;> rfl

@[simp] theorem storeSamples_seg (b : SampleBuf) (xs : List Sample) (s : State) :
    (storeSamples b xs s).seg = s.seg := by cases b <;> rfl

@[simp] theorem writeReg_seg (r : Nat) (v : Word) (s : State) : (writeReg r v s).seg = s.seg := by
  unfold writeReg; split <;> rfl

/-- The words of `CLEAR` and `RESET`, presented either way, end a run (R214, R215). -/
theorem endsRun_of_decode {op : HostOp} {w : Word} {i : Instr}
    (hop : op = .command w ∨ op = .writeReg 0 w) (hi : decode w = .ok i)
    (hends : i = .clear ∨ i = .reset) : endsRun op = true := by
  have hw : w = 0x0E000000 ∨ w = 0x0F000000 :=
    hends.imp (by rintro rfl; exact BitVec.eq_of_toNat_eq (toNat_of_decode hi))
      (by rintro rfl; exact BitVec.eq_of_toNat_eq (toNat_of_decode hi))
  obtain rfl | rfl := hop <;> obtain rfl | rfl := hw <;> rfl

/-- Settles O57: of the operations only a presented word and the reset event touch the table, and the
word's command is known from how it touches it. -/
theorem segmentsOnlyAppended : Obligations.SegmentsOnlyAppended := by
  intro op s t h
  obtain ⟨w, hop, hw⟩ | ⟨rfl, rfl⟩ | ⟨b, bytes, -, -, -, rfl⟩ | ⟨b, xs, -, -, rfl⟩ | ⟨v, -, rfl⟩ |
    ⟨r, v, -, -, rfl⟩ := hostOp_cases h
  · obtain ⟨i, hi, he⟩ | ⟨why, -, he⟩ := hostCommand_cases w s
    · rw [he, exec_eq] at hw
      cases hw
      split_ifs
      · exact .inl rfl
      · obtain hseg | ⟨happ, hseg⟩ | ⟨hends, hseg⟩ := effect_seg_cases i s
        · exact .inl hseg
        · refine .inr (.inl ⟨hseg, w, hop, happ.imp ?_ ?_⟩) <;> rintro rfl <;>
            exact BitVec.eq_of_toNat_eq (toNat_of_decode hi)
        · exact .inr (.inr ⟨hseg, endsRun_of_decode hop hi hends⟩)
    · rw [he] at hw
      cases hw
      split_ifs <;> exact .inl rfl
  · exact .inr (.inr ⟨rfl, rfl⟩)
  · exact .inl (storeBytes_seg b bytes s)
  · exact .inl (storeSamples_seg b xs s)
  · exact .inl rfl
  · exact .inl (writeReg_seg r v s)

/-! ### The lengths of what the commands write (R31) -/

theorem seg_length_le {s : State} (h : Memory.wf s) : s.seg.length ≤ Config.segMax := by
  obtain ⟨-, -, -, -, -, -, -, -, -, -, hseg, -⟩ := h
  exact hseg

theorem data_length_le {s : State} {g : Segment} (h : Memory.wf s) (hg : g ∈ s.seg) :
    g.data.length ≤ Config.lenMax := by
  obtain ⟨-, -, -, -, -, -, -, -, -, -, -, hsegs⟩ := h
  obtain ⟨-, -, hdata⟩ := hsegs g hg
  exact hdata

/-- Each position of the resampler's loop emits at most one sample (R67). -/
theorem zohLoop_length_le (x : List Sample) (s d n acc idx : Nat) :
    (zohLoop x s d n acc idx).length ≤ n := by
  induction n generalizing acc idx with
  | zero => exact Nat.le_refl 0
  | succ n ih =>
    have hemit : (x[idx]?.toList).length ≤ 1 := by cases x[idx]? <;> simp
    rw [zohLoop, List.length_append, Nat.add_comm n 1]
    exact Nat.add_le_add hemit (ih _ _)

/-- Past the check of R145 the resampled input fits its buffer. -/
theorem zoh_length_le {x : List Sample} {s d : Nat} (hx : x.length ≤ Config.lenMax)
    (hfit : resampleOverflows x.length s d = false) : (zoh x s d).length ≤ Config.lenMax := by
  unfold zoh
  split_ifs with hsd
  · exact hx
  · have hlen : outlen x.length s d ≤ Config.lenMax := by
      simpa [resampleOverflows, hsd] using hfit
    exact (zohLoop_length_le x s d _ 0 0).trans hlen

@[simp] theorem quantize_length (xs : List Sample) : (quantize xs).length = xs.length := by
  simp [quantize]

theorem le_align (n : Nat) : n ≤ align n := by unfold align; omega

/-- A part filled to its own padded length has that length (R161). -/
theorem padTo_align_length (payload : List Byte) :
    (padTo (align payload.length) payload).length = align payload.length := by
  rw [padTo_length, Nat.max_eq_right (le_align _)]

theorem stackedFrom_lay_length (total : Nat) (ps : List (List Byte)) :
    (stackedFrom total ps).1.length = paddedTotal ps := by
  induction ps generalizing total with
  | nil => rfl
  | cons p ps ih => simp [stackedFrom, paddedTotal, padTo_align_length, ih]

/-- The slot holds every part, filled or not (R169). -/
theorem align_le_slotOf {p : List Byte} {ps : List (List Byte)} (hp : p ∈ ps) :
    align p.length ≤ slotOf ps := by
  induction ps with
  | nil => cases hp
  | cons q qs ih =>
    rcases List.mem_cons.1 hp with rfl | hp
    · exact Nat.le_max_left _ _
    · exact (ih hp).trans (Nat.le_max_right _ _)

theorem equalBuffer_length {slot : Nat} {ps : List (List Byte)} (h : ∀ p ∈ ps, p.length ≤ slot) :
    (equalBuffer slot ps).length = ps.length * slot := by
  induction ps with
  | nil => simp [equalBuffer]
  | cons p ps ih =>
    rw [List.forall_mem_cons] at h
    rw [equalBuffer, List.length_append, padTo_length, Nat.max_eq_right h.1, ih h.2,
      List.length_cons, Nat.succ_mul, Nat.add_comm]

theorem parts_length (s : State) : (parts s).length = s.seg.length := List.length_map ..

theorem equalBuffer_parts_length (s : State) :
    (equalBuffer (slotOf (parts s)) (parts s)).length = s.seg.length * slotOf (parts s) := by
  rw [equalBuffer_length fun p hp => (le_align _).trans (align_le_slotOf hp), parts_length]

theorem hexDigits_length_le (fuel v : Nat) : (hexDigits fuel v).length ≤ fuel + 1 := by
  induction fuel generalizing v with
  | zero => exact Nat.le_refl 1
  | succ fuel ih =>
    unfold hexDigits
    split_ifs
    · simp
    · simpa using ih (v / 16)

/-- A page offset's text has at most six digits (R174). -/
theorem hex2_length_le (v : Nat) : (hex2 v).length ≤ Config.hexMax := by
  unfold hex2
  split_ifs
  · simp [Config.hexMax]
  · exact hexDigits_length_le 5 v

/-- The container is eight bytes longer than its size field says (R195). -/
theorem container_length (name : List Byte) (r : Word) (lay : List Byte) :
    (container name r lay).length = sizeField name lay + 8 := by
  simp only [container, sizeField, nameLen, zeros, tagForm, tagVhdr, tagName, tagBody,
    Config.formType, be32_length, be16_length, List.length_append, List.length_replicate,
    List.length_cons, List.length_nil]
  omega

/-! ### Offsets and the slot (R34, R66) -/

theorem align_mod (n : Nat) : align n % 256 = 0 := Nat.mul_mod_right ..

theorem slotOf_mod (ps : List (List Byte)) : slotOf ps % 256 = 0 := by
  induction ps with
  | nil => rfl
  | cons p ps ih =>
    have := align_mod p.length
    simp only [slotOf]
    omega

theorem stackedFrom_offs_length (total : Nat) (ps : List (List Byte)) :
    (stackedFrom total ps).2.length = ps.length := by
  induction ps generalizing total with
  | nil => rfl
  | cons p ps ih => simp [stackedFrom, ih]

theorem stackedFrom_offs_mod {total : Nat} {ps : List (List Byte)} (h : total % 256 = 0) :
    ∀ o ∈ (stackedFrom total ps).2, o % 256 = 0 := by
  induction ps generalizing total with
  | nil => simp [stackedFrom]
  | cons p ps ih =>
    have := align_mod p.length
    rw [stackedFrom, List.forall_mem_cons]
    exact ⟨h, ih (by omega)⟩

theorem stackedFrom_offs_head {total o : Nat} {ps : List (List Byte)}
    (h : (stackedFrom total ps).2[0]? = some o) : o = total := by
  cases ps with
  | nil => cases h
  | cons p ps => exact (Option.some.inj h).symm

/-- An aligned number stays aligned when 32 bits of it are kept. -/
theorem toNat_ofNat_mod {n : Nat} (h : n % 256 = 0) : (BitVec.ofNat 32 n).toNat % 256 = 0 := by
  rw [BitVec.toNat_ofNat]; omega

/-! ### The updates of the state keep the invariant -/

section
variable {s : State} (h : Inv s)
include h

theorem raise_inv (f : HardFault) (v : Word) : Inv (raise f v s) where
  memory := raise_wf f v h.memory
  record := by cases f <;> simp [recordLegal, faultCode]
  layout := h.layout

/-- A store outside the fault record. -/
theorem storeBytes_inv {b : ByteBuf} {bytes : List Byte} (hnote : b ≠ .fnote) (hlabel : b ≠ .flabel)
    (hb : bytes.length ≤ byteLimit b) : Inv (storeBytes b bytes s) where
  memory := storeBytes_wf h.memory hb
  record := by
    cases b with
    | fnote => exact absurd rfl hnote
    | flabel => exact absurd rfl hlabel
    | _ => exact h.record
  layout := by cases b <;> exact h.layout

theorem storeSamples_inv {b : SampleBuf} {xs : List Sample} (hb : xs.length ≤ Config.lenMax) :
    Inv (storeSamples b xs s) where
  memory := storeSamples_wf h.memory hb
  record := by cases b <;> exact h.record
  layout := by cases b <;> exact h.layout

theorem appendSegment_inv {g : Segment} (hroom : s.seg.length < Config.segMax)
    (hnote : g.note.length ≤ Config.stringMax) (hlabel : g.label.length ≤ Config.stringMax)
    (hdata : g.data.length ≤ Config.lenMax) : Inv (appendSegment g s) where
  memory := appendSegment_wf h.memory hroom ⟨hnote, hlabel, hdata⟩
  record := h.record
  layout := by
    obtain ⟨hoffs, hslot, hfirst, hcount⟩ := h.layout
    exact ⟨hoffs, hslot, hfirst, by
      rw [appendSegment_seg, List.length_append]; exact Nat.le_add_right_of_le hcount⟩

theorem storeLayout_inv {lay : List Byte} {offs : List Nat} {slot : Nat}
    (hlay : lay.length ≤ Config.lenMax) (hoffs : ∀ o ∈ offs, o % 256 = 0) (hslot : slot % 256 = 0)
    (hfirst : ∀ o, offs[0]? = some o → o = 0) (hcount : offs.length ≤ s.seg.length) :
    Inv (storeLayout lay offs slot s) where
  memory := storeLayout_wf offs slot h.memory hlay
  record := h.record
  layout := by
    refine ⟨?_, toNat_ofNat_mod hslot, ?_, by simpa using hcount⟩
    · simpa using fun o ho => toNat_ofNat_mod (hoffs o ho)
    · simp only [storeLayout_offs, List.getElem?_map, Option.map_eq_some_iff]
      rintro _ ⟨o, ho, rfl⟩
      rw [hfirst o ho]; rfl

theorem writeReg_inv (r : Nat) (v : Word) : Inv (writeReg r v s) where
  memory := writeReg_wf r v h.memory
  record := by unfold writeReg; split <;> exact h.record
  layout := by unfold writeReg; split <;> exact h.layout

theorem clearRun_inv : Inv (clearRun s) where
  memory := clearRun_wf h.memory
  record := by simp [recordLegal]
  layout := by simp [layoutAligned]

end

/-- The block after reset, whatever the host's side, meets the invariant (R50, R260). -/
theorem resetBlock_inv (s : State) : Inv (resetBlock s) where
  memory := resetBlock_wf s
  record := by simp [recordLegal]
  layout := by simp [layoutAligned]

/-! ### Every command keeps the invariant -/

theorem lsingleEffect_inv {s : State} (h : Inv s) : Inv (lsingleEffect s) := by
  obtain ⟨-, he⟩ | ⟨g, hseg, he⟩ := lsingleEffect_cases s <;> rw [he]
  · exact raise_inv h _ _
  · have hdata := data_length_le h.memory (hseg ▸ List.mem_singleton_self g)
    refine storeLayout_inv h ?_ (by simp) rfl (by simp) (by simp [hseg])
    exact (padTo_align_length _).trans_le (align_le_lenMax hdata)

theorem lstackEffect_inv {s : State} (h : Inv s) : Inv (lstackEffect s) := by
  obtain ⟨-, he⟩ | ⟨hfit, he⟩ := lstackEffect_cases s <;> rw [he]
  · exact raise_inv h _ _
  · refine storeLayout_inv h ?_ (stackedFrom_offs_mod rfl) rfl (fun o ho => stackedFrom_offs_head ho)
      ?_
    · rwa [stackedFrom_lay_length]
    · rw [stackedFrom_offs_length, parts_length]

theorem lequalEffect_inv {s : State} (h : Inv s) : Inv (lequalEffect s) := by
  obtain ⟨-, he⟩ | ⟨hfit, he⟩ := lequalEffect_cases s <;> rw [he]
  · exact raise_inv h _ _
  · have hslot := slotOf_mod (parts s)
    refine storeLayout_inv h ?_ ?_ hslot ?_ ?_
    · rwa [equalBuffer_parts_length]
    · simp [Nat.mul_mod, hslot]
    · intro o ho
      obtain ⟨i, hi, rfl⟩ := Option.map_eq_some_iff.1 (List.getElem?_map .. ▸ ho)
      obtain ⟨_, rfl⟩ := List.getElem?_eq_some_iff.1 hi
      simp
    · simp

/-- What `CONV` writes is a rate, two stores and an appended segment, one after the other (R212). -/
theorem convert_inv {s : State} {d : Word} (h : Inv s) (hroom : s.seg.length < Config.segMax)
    (hfit : resampleOverflows s.inBuf.length s.srcHz.toNat d.toNat = false) : Inv (convert d s) := by
  obtain ⟨hnote, hlabel, hin, -⟩ := h.memory
  have hlen := zoh_length_le hin hfit
  have hrate : Inv { s with dstHz := d } := ⟨h.memory, h.record, h.layout⟩
  have hrs := storeSamples_inv hrate (b := .rs) hlen
  have hq := storeBytes_inv hrs (b := .q) (by decide) (by decide)
    ((quantize_length _).trans_le hlen)
  exact appendSegment_inv hq (g := ⟨_, _, d, _⟩) hroom hnote hlabel
    ((quantize_length _).trans_le hlen)

/-- Every command keeps the invariant on a block that executes it. -/
theorem effect_inv (i : Instr) {s : State} (h : Inv s) : Inv (effect i s) := by
  obtain ⟨hnote, hlabel, hin, hrs, hq, -⟩ := h.memory
  cases i with
  | nop => exact h
  | rate =>
    change Inv (rateEffect Config.params s)
    obtain ⟨-, he⟩ | ⟨r, -, he⟩ := rateEffect_cases Config.params s <;> rw [he]
    · exact raise_inv h _ _
    · exact ⟨h.memory, h.record, h.layout⟩
  | quant =>
    exact storeBytes_inv h (b := .q) (by decide) (by decide) ((quantize_length _).trans_le hrs)
  | resamp =>
    change Inv (resampEffect s)
    obtain ⟨-, he⟩ | ⟨-, -, he⟩ | ⟨-, hfit, he⟩ := resampEffect_cases s <;> rw [he]
    · exact raise_inv h _ _
    · exact raise_inv h _ _
    · exact storeSamples_inv h (b := .rs) (zoh_length_le hin hfit)
  | align =>
    change Inv (alignEffect s)
    obtain ⟨-, he⟩ | ⟨-, he⟩ := alignEffect_cases s <;> rw [he]
    · exact raise_inv h _ _
    · exact ⟨h.memory, h.record, h.layout⟩
  | push =>
    change Inv (pushEffect s)
    obtain ⟨-, he⟩ | ⟨hroom, he⟩ := pushEffect_cases s <;> rw [he]
    · exact raise_inv h _ _
    · exact appendSegment_inv h hroom hnote hlabel hq
  | lsingle => exact lsingleEffect_inv h
  | lstack => exact lstackEffect_inv h
  | lequal => exact lequalEffect_inv h
  | hexoff idx =>
    change Inv (hexoffEffect idx s)
    obtain ⟨-, he⟩ | ⟨o, -, he⟩ := hexoffEffect_cases idx s <;> rw [he]
    · exact raise_inv h _ _
    · exact storeBytes_inv h (b := .hex) (by decide) (by decide) (hex2_length_le _)
  | hexslot => exact storeBytes_inv h (b := .hex) (by decide) (by decide) (hex2_length_le _)
  | ser =>
    change Inv (serEffect Config.params s)
    obtain ⟨-, he⟩ | ⟨-, -, he⟩ | ⟨g, gs, -, hsize, he⟩ := serEffect_cases Config.params s <;> rw [he]
    · exact raise_inv h _ _
    · exact raise_inv h _ _
    · refine storeBytes_inv h (b := .out) (by decide) (by decide) ?_
      rw [container_length]
      exact Nat.add_le_add_right hsize 8
  | conv =>
    change Inv (convEffect Config.params s)
    obtain ⟨f, v, he⟩ | ⟨d, -, -, -, -, hfit, hroom, he⟩ := convEffect_cases Config.params s <;>
      rw [he]
    · exact raise_inv h f v
    · exact convert_inv h hroom hfit
  | clear => exact clearRun_inv h
  | reset => exact resetBlock_inv s

theorem hostCommand_inv {w : Word} {s t : State} (h : Inv s) (ht : hostCommand w s = .next t) :
    Inv t := by
  obtain ⟨i, -, he⟩ | ⟨why, -, he⟩ := hostCommand_cases w s <;> rw [he] at ht
  · rw [exec_eq] at ht
    cases ht
    split_ifs
    · exact h
    · exact effect_inv i h
  · cases ht
    split_ifs
    · exact h
    · exact raise_inv h _ _

theorem hostOp_inv {op : HostOp} {s t : State} (h : Inv s) (ht : hostOp op s = .next t) : Inv t := by
  obtain ⟨w, -, hw⟩ | ⟨-, rfl⟩ | ⟨b, bytes, -, hrw, hlen, rfl⟩ | ⟨b, xs, -, hlen, rfl⟩ | ⟨v, -, rfl⟩ |
    ⟨r, v, -, -, rfl⟩ := hostOp_cases ht
  · exact hostCommand_inv h hw
  · exact resetBlock_inv s
  · exact storeBytes_inv h (by rintro rfl; cases hrw) (by rintro rfl; cases hrw) hlen
  · exact storeSamples_inv h hlen
  · exact ⟨h.memory, h.record, h.layout⟩
  · exact writeReg_inv h r v

/-- Settles O8: the host's turn with an empty script is the identity (log 4). -/
theorem idleBlockWaits : Obligations.IdleBlockWaits := by
  intro s h
  simp [step, hostTurn, h]

/-- Settles O60: the invariant does not speak of the script, and the operation a step performs keeps
it. -/
theorem stepKeepsInvariant : Obligations.StepKeepsInvariant := by
  intro s t h ht
  cases hscript : s.script with
  | nil =>
    rw [idleBlockWaits s hscript] at ht
    cases ht
    exact h
  | cons op rest =>
    rw [step_cons hscript] at ht
    exact hostOp_inv (s := { s with script := rest }) ⟨h.memory, h.record, h.layout⟩ ht

/-- Settles O59: the reset state is what the reset event writes over it. -/
theorem invariantAtReset : Obligations.InvariantAtReset := resetBlock_inv State.reset

/-! ### The warning (R29, R165, R234) -/

theorem warn_eq_true_iff {s : State} :
    warn s = true ↔ ∃ g ∈ s.seg, 65535 < g.data.length := by
  simp [warn, oversize, Config.oversizeLimit]

theorem warn_eq_of_seg_eq {s t : State} (h : t.seg = s.seg) : warn t = warn s := by
  simp only [warn, h]

theorem warn_of_seg_eq_append {s t : State} {g : Segment} (h : t.seg = s.seg ++ [g]) :
    warn t = (warn s || oversize g) := by
  simp [warn, h]

/-- Each of the three ways to end a run empties the table (R214, R215, R260). -/
theorem seg_eq_nil_of_endsRun {op : HostOp} {s t : State} (hends : endsRun op = true)
    (h : hostOp op s = .next t) : t.seg = [] := by
  simp only [endsRun, decide_eq_true_eq, List.mem_cons, List.not_mem_nil, or_false] at hends
  obtain rfl | rfl | rfl | rfl | rfl := hends <;> cases h <;> rfl

/-- Settles O58: the warning is read off the table, which an operation keeps, extends by one segment,
or empties at the end of a run. -/
theorem warningFollowsSegments : Obligations.WarningFollowsSegments := by
  intro op s t h
  refine ⟨fun hwarn => ⟨fun hclear => ?_, fun hends => ?_⟩, fun hclear hwarn => ?_⟩
  · obtain hseg | ⟨⟨g, hseg⟩, -⟩ | ⟨-, hends⟩ := segmentsOnlyAppended op s t h
    · simp [warn_eq_of_seg_eq hseg, hwarn] at hclear
    · simp [warn_of_seg_eq_append hseg, hwarn] at hclear
    · exact hends
  · simp [warn, seg_eq_nil_of_endsRun hends h]
  · obtain hseg | ⟨⟨g, hseg⟩, -⟩ | ⟨hseg, -⟩ := segmentsOnlyAppended op s t h
    · simp [warn_eq_of_seg_eq hseg, hclear] at hwarn
    · rw [warn_of_seg_eq_append hseg, hclear, Bool.false_or] at hwarn
      exact ⟨g, hseg, of_decide_eq_true hwarn⟩
    · simp [warn, hseg] at hwarn

/-! ### The register map (R22 to R29, R37) -/

/-- `STATUS` bit by bit (R24). -/
theorem statusWord_getLsbD (s : State) (k : Nat) :
    (statusWord s).getLsbD k = (decide (k = 0) && halted s || decide (k = 1) && warn s) := by
  obtain _ | _ | k := k <;> cases hh : halted s <;> cases hw : warn s <;>
    simp [statusWord, hh, hw, BitVec.getLsbD_ofNat, Nat.testBit_succ]

/-- A host write to any register but the command port is a register write (R22, R62). -/
theorem hostOp_writeReg {r : Nat} (hr : r ≠ 0) (v : Word) (s : State) :
    hostOp (.writeReg r v) s = .next (writeReg r v s) := if_neg hr

/-- Settles O46: each bit is its flag, and register 1 stores nothing. -/
theorem statusBits : Obligations.StatusBits := by
  intro s
  refine ⟨rfl, ?_, ?_, fun k hk => ?_, fun v => hostOp_writeReg Nat.one_ne_zero v s⟩
  · rw [statusWord_getLsbD]
    simp [halted_eq_true_iff]
  · rw [statusWord_getLsbD]
    simp [warn_eq_true_iff]
  · have h0 : k ≠ 0 := by omega
    have h1 : k ≠ 1 := by omega
    simp [statusWord_getLsbD, h0, h1]

theorem toNat_ofNat_of_le_lenMax {n : Nat} (h : n ≤ Config.lenMax) :
    (BitVec.ofNat 32 n).toNat = n := by
  simp only [BitVec.toNat_ofNat, Config.lenMax] at *; omega

/-- Settles O48: the window reads the selected entries, whose lengths 32 bits hold (R31). -/
theorem segmentWindow : Obligations.SegmentWindow := by
  intro s hwf
  refine ⟨fun g hg => ?_, fun hnone => ?_, fun o ho => ?_, fun hnone => ?_⟩
  · have hdata := data_length_le hwf (List.mem_of_getElem? hg)
    have hsel : selected s = some g := hg
    refine ⟨?_, ?_, ?_⟩
    · simp [readReg, segHz, hsel]
    · simpa [readReg, segLen, hsel] using toNat_ofNat_of_le_lenMax hdata
    · simpa [readReg, segPad, hsel] using align_toNat hdata
  · have hsel : selected s = none := List.getElem?_eq_none hnone
    simp [readReg, segHz, segLen, segPad, hsel]
  · simp [readReg, segStart, ho]
  · simp [readReg, segStart, List.getElem?_eq_none hnone]

/-- After a write to a writable register the stored part of the map reads the value there and what it
read before everywhere else (R22). -/
theorem readReg_writeReg {r k : Nat} (hr : r ∈ [4, 5, 6, 7, 11]) (hk : k < 12) (v : Word)
    (s : State) : readReg k (writeReg r v s) = if k = r then v else readReg k s := by
  simp only [List.mem_cons, List.not_mem_nil, or_false] at hr
  obtain rfl | rfl | rfl | rfl | rfl := hr <;> interval_cases k <;> rfl

/-- A write to a read-only register or to a number that does not exist is ignored (R22, R28). -/
theorem writeReg_of_not_writable {r : Nat} (hr : r ∉ [4, 5, 6, 7, 11]) (v : Word) (s : State) :
    writeReg r v s = s := by
  unfold writeReg
  split
  iterate 5 exact absurd (by decide) hr
  rfl

/-- Settles O49: the write stores one register or none. -/
theorem hostRegisterWrites : Obligations.HostRegisterWrites := by
  intro s r v hr
  refine ⟨writeReg r v s, hostOp_writeReg hr v s, fun hw => ⟨?_, fun k hk hne => ?_⟩,
    fun hw => writeReg_of_not_writable hw v s, ?_⟩
  · have hlt : ∀ n ∈ [4, 5, 6, 7, 11], n < 12 := by decide
    rw [readReg_writeReg hw (hlt r hw), if_pos rfl]
  · rw [readReg_writeReg hw hk, if_neg hne]
  · obtain h | h | h | h | h | h := writeReg_cases r v s <;> rw [h]

/-- Settles O47: each number of the map reads its register, and the two list lengths and the clock
fit 32 bits. -/
theorem registerMapReads : Obligations.RegisterMapReads := by
  intro s
  refine ⟨rfl, rfl, rfl, rfl, rfl, rfl, rfl, rfl, rfl, rfl, fun h => ?_, ?_, rfl, rfl, fun r hr => ?_⟩
  · obtain ⟨-, -, -, hoffs⟩ := h.layout
    have hlen : s.seg.length ≤ Config.lenMax := (seg_length_le h.memory).trans (by decide)
    exact ⟨toNat_ofNat_of_le_lenMax hlen, toNat_ofNat_of_le_lenMax (hoffs.trans hlen)⟩
  · exact Nat.mod_eq_of_lt Config.clockHz_lt
  · obtain ⟨k, rfl⟩ := Nat.exists_eq_add_of_le' hr
    rfl

/-! ### The buffers, and the state after reset (R30, R50) -/

/-- Settles O51: the host may write the four buffers and both sample buffers, and a store leaves the
others. -/
theorem hostSetReplacesOneBuffer : Obligations.HostSetReplacesOneBuffer := by
  constructor
  · intro s b bytes hb hlen
    refine ⟨storeBytes b bytes s, ?_, bytesOf_storeBytes b bytes s,
      fun b' hne => bytesOf_storeBytes_of_ne hne bytes s, ?_⟩
    · have hrw : ∀ c ∈ [ByteBuf.note, .label, .q, .lay], hostWritable c ≠ false := by decide
      exact (if_neg (hrw b hb)).trans (if_neg (Nat.not_lt.2 hlen))
    · simp only [List.mem_cons, List.not_mem_nil, or_false] at hb
      obtain rfl | rfl | rfl | rfl := hb <;> rfl
  · intro s b xs hlen
    refine ⟨storeSamples b xs s, if_neg (Nat.not_lt.2 hlen), samplesOf_storeSamples b xs s,
      fun b' hne => samplesOf_storeSamples_of_ne hne xs s, ?_⟩
    cases b <;> rfl

/-- Settles O45: each number below 16, and each buffer, read at the reset values. -/
theorem resetStateReadsZero : Obligations.ResetStateReadsZero :=
  ⟨by decide, fun b => by cases b <;> rfl, fun b => by cases b <;> rfl, rfl, rfl⟩

end Sys2Proof.Machine

/-!
PROOFS. The statements of 20_memory.md: the host port (R62, R71), which writes a command makes (R69),
what a command does twice (R71), and the upstream byte order (R64).
-/

namespace Sys2Proof.Machine

/-! ### The host port (R62) -/

/-- A word that decodes to a command runs it (R62). -/
theorem hostCommand_of_decode {w : Word} {i : Instr} (h : decode w = .ok i) (s : State) :
    hostCommand w s = exec i s := by
  simp [hostCommand, h]

/-- A write to register 0 presents the word as a command (R28). -/
theorem hostOp_writeReg_zero (w : Word) (s : State) :
    hostOp (.writeReg 0 w) s = hostCommand w s := rfl

/-- Settles O5: the operation is taken off the script, and both ways to present a word run its
command. -/
theorem stepRunsDecodedCommand : Obligations.StepRunsDecodedCommand := by
  intro s op rest hscript
  refine ⟨step_cons hscript, fun w i hop hi => ?_⟩
  rw [step_cons hscript, ← hostCommand_of_decode hi]
  obtain rfl | rfl := hop
  · rfl
  · exact hostOp_writeReg_zero w _

/-- `HostGetSeg` gives a segment that is there (R36). -/
theorem hostOp_getSeg_of_getElem?_eq_some {i : Nat} {g : Segment} {s : State}
    (h : s.seg[i]? = some g) : hostOp (.getSeg i) s = .next (deliver (.segment g) s) := by
  simp [hostOp, hostGetSeg, h]

/-- `HostGetSeg` stops at a segment that is not there (R62, log 7). -/
theorem hostOp_getSeg_of_getElem?_eq_none {i : Nat} {s : State} (h : s.seg[i]? = none) :
    hostOp (.getSeg i) s = .fault .noSuchSegment := by
  simp [hostOp, hostGetSeg, h]

/-- A presented word, legal or not, ends in a next state (R62, R74). -/
theorem exists_hostCommand_eq_next (w : Word) (s : State) : ∃ t, hostCommand w s = .next t := by
  obtain ⟨i, -, h⟩ | ⟨why, -, h⟩ := hostCommand_cases w s
  · exact ⟨_, h.trans (exec_eq i s)⟩
  · exact ⟨_, h⟩

/-- Settles O9: of the host's operations only `HostSet` and `HostGetSeg` have a domain (logs 6, 7). -/
theorem stepStopsOnlyAtHostMisuse : Obligations.StepStopsOnlyAtHostMisuse := by
  intro s
  cases hscript : s.script with
  | nil => exact .inl ⟨s, idleBlockWaits s hscript⟩
  | cons op rest =>
    rw [step_cons hscript]
    cases op with
    | setBytes b bytes =>
      by_cases hro : hostWritable b = false
      · exact .inr (.inl ⟨b, bytes, rest, rfl, .inl ⟨hro, if_pos hro⟩⟩)
      · by_cases hlen : byteLimit b < bytes.length
        · exact .inr (.inl ⟨b, bytes, rest, rfl, .inr ⟨hlen, (if_neg hro).trans (if_pos hlen)⟩⟩)
        · exact .inl ⟨_, (if_neg hro).trans (if_neg hlen)⟩
    | setSamples b xs =>
      by_cases hlen : Config.lenMax < xs.length
      · exact .inr (.inr (.inl ⟨b, xs, rest, rfl, hlen, if_pos hlen⟩))
      · exact .inl ⟨_, if_neg hlen⟩
    | getSeg i =>
      cases hseg : s.seg[i]? with
      | none =>
        exact .inr (.inr (.inr ⟨i, rest, rfl, List.getElem?_eq_none_iff.1 hseg,
          hostOp_getSeg_of_getElem?_eq_none hseg⟩))
      | some g => exact .inl ⟨_, hostOp_getSeg_of_getElem?_eq_some hseg⟩
    | writeReg r v =>
      by_cases hr : r = 0
      · rw [hr, hostOp_writeReg_zero]
        exact .inl (exists_hostCommand_eq_next v _)
      · exact .inl ⟨_, hostOp_writeReg hr v _⟩
    | command w => exact .inl (exists_hostCommand_eq_next w _)
    | getBytes b => exact .inl ⟨_, rfl⟩
    | getSamples b => exact .inl ⟨_, rfl⟩
    | getOffs => exact .inl ⟨_, rfl⟩
    | readReg r => exact .inl ⟨_, rfl⟩
    | resetEvent => exact .inl ⟨_, rfl⟩

/-! ### Reading operations (R71) -/

/-- What a host operation returns, if it is a read that the block can answer (R36, R62). -/
def readReply (s : State) : HostOp → Option Reply
  | .getBytes b => some (.bytes (bytesOf b s))
  | .getSamples b => some (.samples (samplesOf b s))
  | .getSeg i => s.seg[i]?.map .segment
  | .getOffs => some (.offsets s.offs)
  | .readReg r => some (.register (readReg r s))
  | _ => none

/-- A read hands over its reply and does nothing else (R71). -/
theorem hostOp_of_readReply {s : State} {op : HostOp} {v : Reply} (h : readReply s op = some v) :
    hostOp op s = .next (deliver v s) := by
  cases op with
  | getSeg i =>
    obtain ⟨g, hg, rfl⟩ := Option.map_eq_some_iff.1 h
    exact hostOp_getSeg_of_getElem?_eq_some hg
  | getBytes b => cases h; rfl
  | getSamples b => cases h; rfl
  | getOffs => cases h; rfl
  | readReg r => cases h; rfl
  | setBytes => cases h
  | setSamples => cases h
  | writeReg => cases h
  | command => cases h
  | resetEvent => cases h

/-- What was read before is no part of what is read (R71). -/
theorem readReply_deliver (u : Reply) (s : State) (op : HostOp) :
    readReply (deliver u s) op = readReply s op := by
  cases op <;> rfl

/-- Settles O50: a read delivers its reply, and the reply does not depend on an earlier one. -/
theorem hostReadsChangeNothing : Obligations.HostReadsChangeNothing := by
  intro s
  refine ⟨⟨rfl, rfl, rfl, rfl, rfl, rfl, rfl, rfl, rfl, rfl⟩, fun op v hread => ?_⟩
  have hreply : readReply s op = some v := by
    obtain ⟨b, rfl, rfl⟩ | ⟨b, rfl, rfl⟩ | ⟨i, g, rfl, hg, rfl⟩ | ⟨rfl, rfl⟩ | ⟨r, rfl, rfl⟩ := hread
    · rfl
    · rfl
    · simp [readReply, hg]
    · rfl
    · rfl
  exact ⟨deliver v s, hostOp_of_readReply hreply, rfl,
    hostOp_of_readReply ((readReply_deliver v s op).trans hreply)⟩

/-! ### What a command may write (R69, R238) -/

/-- A command that writes nothing stays inside every row. -/
theorem writtenFrom_self (i : Instr) (s : State) : writtenFrom i s s = s := by
  cases i <;> rfl

/-- A buffer outside a command's row keeps its content, whatever the row is given (R69). -/
theorem bytesOf_writtenFrom {i : Instr} {b : ByteBuf} (hb : b ∉ byteWrites i) (t s : State) :
    bytesOf b (writtenFrom i t s) = bytesOf b s := by
  cases i <;> cases b <;> simp [byteWrites] at hb <;> rfl

theorem samplesOf_writtenFrom {i : Instr} {b : SampleBuf} (hb : b ∉ sampleWrites i) (t s : State) :
    samplesOf b (writtenFrom i t s) = samplesOf b s := by
  cases i <;> cases b <;> simp [sampleWrites] at hb <;> rfl

/-- An effect is known to stay inside its row once one of its outcomes does. -/
theorem effect_frame_of_eq {i : Instr} {s t : State} (h : effect i s = t)
    (ht : t = writtenFrom i t s) : effect i s = writtenFrom i (effect i s) s := by
  rwa [h]

/-- Each outcome of a command's effect, a fault entry or its writes, is inside its row (R69, R238). -/
theorem effect_eq_writtenFrom (i : Instr) (s : State) :
    effect i s = writtenFrom i (effect i s) s := by
  cases i with
  | nop => rfl
  | rate =>
    obtain ⟨-, h⟩ | ⟨r, -, h⟩ := rateEffect_cases Config.params s <;> exact effect_frame_of_eq h rfl
  | quant => rfl
  | resamp =>
    obtain ⟨-, h⟩ | ⟨-, -, h⟩ | ⟨-, -, h⟩ := resampEffect_cases s <;> exact effect_frame_of_eq h rfl
  | align =>
    obtain ⟨-, h⟩ | ⟨-, h⟩ := alignEffect_cases s <;> exact effect_frame_of_eq h rfl
  | push =>
    obtain ⟨-, h⟩ | ⟨-, h⟩ := pushEffect_cases s <;> exact effect_frame_of_eq h rfl
  | lsingle =>
    obtain ⟨-, h⟩ | ⟨g, -, h⟩ := lsingleEffect_cases s <;> exact effect_frame_of_eq h rfl
  | lstack =>
    obtain ⟨-, h⟩ | ⟨-, h⟩ := lstackEffect_cases s <;> exact effect_frame_of_eq h rfl
  | lequal =>
    obtain ⟨-, h⟩ | ⟨-, h⟩ := lequalEffect_cases s <;> exact effect_frame_of_eq h rfl
  | hexoff idx =>
    obtain ⟨-, h⟩ | ⟨o, -, h⟩ := hexoffEffect_cases idx s <;> exact effect_frame_of_eq h rfl
  | hexslot => rfl
  | ser =>
    obtain ⟨-, h⟩ | ⟨-, -, h⟩ | ⟨g, gs, -, -, h⟩ := serEffect_cases Config.params s <;>
      exact effect_frame_of_eq h rfl
  | conv =>
    obtain ⟨f, v, h⟩ | ⟨d, -, -, -, -, -, -, h⟩ := convEffect_cases Config.params s <;>
      exact effect_frame_of_eq h rfl
  | clear => rfl
  | reset => rfl

/-- Settles O11: a command is ignored or is its effect, and both stay inside its row. -/
theorem commandWritesOnlyItsRow : Obligations.CommandWritesOnlyItsRow := by
  intro i s t h
  have hrow : t = writtenFrom i t s := by
    rw [exec_eq] at h
    cases h
    split_ifs
    · exact (writtenFrom_self i s).symm
    · exact effect_eq_writtenFrom i s
  refine ⟨hrow, fun b hb a n => ?_, fun b hb a n => ?_⟩
  · rw [hrow, bytesOf_writtenFrom hb]
  · rw [hrow, samplesOf_writtenFrom hb]

/-! ### Executing a command twice (R71) -/

theorem rateEffect_of_rateOf_eq_none {p : Config.Params} {s : State} (h : rateOf p s.note = none) :
    rateEffect p s = raise .invalidNote (BitVec.ofNat 32 s.note.length) s := by
  simp [rateEffect, h]

theorem lsingleEffect_of_seg_eq_singleton {s : State} {g : Segment} (h : s.seg = [g]) :
    lsingleEffect s = storeLayout (padTo (align g.data.length) g.data) [0] 0 s := by
  simp [lsingleEffect, h]

theorem lsingleEffect_of_length_ne_one {s : State} (h : s.seg.length ≠ 1) :
    lsingleEffect s = raise .badOperand 2 s := by
  obtain ⟨-, he⟩ | ⟨g, hseg, -⟩ := lsingleEffect_cases s
  · exact he
  · exact absurd (congrArg List.length hseg) h

theorem hexoffEffect_of_getElem?_eq_none {idx : Nat} {s : State} (h : s.offs[idx]? = none) :
    hexoffEffect idx s = raise .badOperand 3 s := by
  simp [hexoffEffect, h]

theorem hexoffEffect_of_getElem?_eq_some {idx : Nat} {s : State} {o : Word}
    (h : s.offs[idx]? = some o) : hexoffEffect idx s = { s with hex := hex2 (pageOf o) } := by
  simp [hexoffEffect, h]

theorem serEffect_of_seg_eq_nil {p : Config.Params} {s : State} (h : s.seg = []) :
    serEffect p s = raise .badOperand 4 s := by
  simp [serEffect, h]

theorem serEffect_of_size_gt {p : Config.Params} {s : State} (hseg : s.seg ≠ [])
    (h : 2 ^ 32 - 1 < sizeField p.nameTag s.lay) : serEffect p s = raise .overflow 5 s := by
  obtain ⟨g, gs, hcons⟩ := List.exists_cons_of_ne_nil hseg
  simp only [serEffect, hcons, if_pos h]

theorem serEffect_of_size_le {p : Config.Params} {s : State} {g : Segment} {gs : List Segment}
    (hseg : s.seg = g :: gs) (h : sizeField p.nameTag s.lay ≤ 2 ^ 32 - 1) :
    serEffect p s = { s with out := container p.nameTag g.targetHz s.lay } := by
  simp only [serEffect, hseg, if_neg (Nat.not_lt.2 h)]

/-- An aligned length is a multiple of 256 and stays as it is (R161). -/
theorem align_align (n : Nat) : align (align n) = align n := by
  unfold align; omega

/-- An outcome that the command leaves alone is the outcome of executing it twice. -/
theorem effect_effect_of_eq {i : Instr} {s t : State} (h : effect i s = t) (ht : effect i t = t) :
    effect i (effect i s) = effect i s := by
  rw [h, ht]

/-- No outcome of a command but `PUSH` and `CONV`, a fault entry included, changes what the command
reads, except that `ALIGN` then reads an aligned length: it ends the same way again. -/
theorem effect_effect {i : Instr} (hpush : i ≠ .push) (hconv : i ≠ .conv) (s : State) :
    effect i (effect i s) = effect i s := by
  cases i with
  | nop => rfl
  | rate =>
    obtain ⟨hr, h⟩ | ⟨r, hr, h⟩ := rateEffect_cases Config.params s
    · exact effect_effect_of_eq h (rateEffect_of_rateOf_eq_none hr)
    · exact effect_effect_of_eq h (rateEffect_of_rateOf hr)
  | quant => rfl
  | resamp =>
    obtain ⟨hsrc, h⟩ | ⟨hsrc, hbig, h⟩ | ⟨hsrc, hfit, h⟩ := resampEffect_cases s
    · exact effect_effect_of_eq h (if_pos hsrc)
    · exact effect_effect_of_eq h ((if_neg hsrc).trans (if_pos hbig))
    · exact effect_effect_of_eq h ((if_neg hsrc).trans (if_neg (ne_true_of_eq_false hfit)))
  | align =>
    obtain ⟨hbig, h⟩ | ⟨hfit, h⟩ := alignEffect_cases s
    · exact effect_effect_of_eq h (if_pos hbig)
    · refine effect_effect_of_eq h ?_
      simp [effect, alignEffect, align_toNat hfit, align_align, align_le_lenMax hfit]
  | push => exact absurd rfl hpush
  | lsingle =>
    obtain ⟨hlen, h⟩ | ⟨g, hseg, h⟩ := lsingleEffect_cases s
    · exact effect_effect_of_eq h (lsingleEffect_of_length_ne_one hlen)
    · exact effect_effect_of_eq h (lsingleEffect_of_seg_eq_singleton hseg)
  | lstack =>
    obtain ⟨hbig, h⟩ | ⟨hfit, h⟩ := lstackEffect_cases s
    · exact effect_effect_of_eq h (if_pos hbig)
    · exact effect_effect_of_eq h (if_neg (Nat.not_lt.2 hfit))
  | lequal =>
    obtain ⟨hbig, h⟩ | ⟨hfit, h⟩ := lequalEffect_cases s
    · exact effect_effect_of_eq h (if_pos hbig)
    · exact effect_effect_of_eq h (if_neg (Nat.not_lt.2 hfit))
  | hexoff idx =>
    obtain ⟨ho, h⟩ | ⟨o, ho, h⟩ := hexoffEffect_cases idx s
    · exact effect_effect_of_eq h (hexoffEffect_of_getElem?_eq_none ho)
    · exact effect_effect_of_eq h (hexoffEffect_of_getElem?_eq_some ho)
  | hexslot => rfl
  | ser =>
    obtain ⟨hseg, h⟩ | ⟨hseg, hbig, h⟩ | ⟨g, gs, hseg, hfit, h⟩ := serEffect_cases Config.params s
    · exact effect_effect_of_eq h (serEffect_of_seg_eq_nil hseg)
    · exact effect_effect_of_eq h (serEffect_of_size_gt hseg hbig)
    · exact effect_effect_of_eq h (serEffect_of_size_le hseg hfit)
  | conv => exact absurd rfl hconv
  | clear => rfl
  | reset => rfl

/-- Settles O13: a command is ignored or is its effect, and neither does more the second time. -/
theorem commandsIdempotent : Obligations.CommandsIdempotent := by
  intro i s t hpush hconv h
  rw [exec_eq] at h ⊢
  cases h
  by_cases hskip : s.fcode ≠ 0 ∧ i ≠ .clear ∧ i ≠ .reset
  · simp only [if_pos hskip]
  · simp only [if_neg hskip, effect_effect hpush hconv, ite_self]

/-! ### The upstream byte order (R64) -/

/-- The pattern of a little-endian pair, as a number (R64). -/
theorem le16_toNat (b0 b1 : Byte) : (le16 b0 b1).toNat = b0.toNat + 256 * b1.toNat := by
  rw [le16, BitVec.toNat_append, ← Nat.shiftLeft_add_eq_or_of_lt b0.isLt, Nat.shiftLeft_eq]
  omega

/-- Sample `k` is made of the bytes `2k` and `2k + 1` (R64). -/
theorem samplesOfBytes_getElem? {bytes : List Byte} {k : Nat} {b0 b1 : Byte}
    (h0 : bytes[2 * k]? = some b0) (h1 : bytes[2 * k + 1]? = some b1) :
    (samplesOfBytes bytes)[k]? = some (le16 b0 b1) := by
  induction bytes using samplesOfBytes.induct generalizing k with
  | case1 c0 c1 rest ih =>
    cases k with
    | zero => cases h0; cases h1; rfl
    | succ k => exact ih h0 h1
  | case2 bytes hshort =>
    obtain _ | ⟨c0, _ | ⟨c1, rest⟩⟩ := bytes
    · cases h0
    · cases h1
    · exact (hshort c0 c1 rest rfl).elim

/-- Settles O52: sample `k` is the pair's pattern, whose value turns negative at 2^15. -/
theorem littleEndianSamples : Obligations.LittleEndianSamples := by
  intro bytes k b0 b1 h0 h1
  refine ⟨le16 b0 b1, samplesOfBytes_getElem? h0 h1, ?_⟩
  rw [BitVec.toInt_eq_toNat_cond, le16_toNat]
  split_ifs <;> omega

end Sys2Proof.Machine

/-!
PROOFS. The statements of 30_encoding.md: decoding and encoding are inverse (R90 to R95, R99), and the
host scripts of the table of contracts (R98).
-/

namespace Sys2Proof.Machine

/-! ### The fields of a word (R90) -/

theorem argField_lt (w : Word) : argField w < 2 ^ 24 := (w.extractLsb' 0 24).isLt

theorem opField_eq (w : Word) : opField w = w.toNat / 2 ^ 24 := by
  have hfields := toNat_eq_fields w
  have harg := argField_lt w
  omega

theorem argField_eq (w : Word) : argField w = w.toNat % 2 ^ 24 := by
  simp [argField]

/-! ### The verdicts of `decode` (R91, R93, R94, R99) -/

/-- `HEXOFF` alone takes its argument from the word (R92). -/
theorem decode_of_opField_eq_nine {w : Word} (h : opField w = 0x09) :
    decode w = .ok (.hexoff (argField w)) := if_pos h

/-- A word of a command without operand is legal exactly with argument 0 (R94). -/
theorem decode_of_plainCommand_eq_some {w : Word} {i : Instr}
    (h : plainCommand (opField w) = some i) :
    decode w = if argField w = 0 then .ok i else .error .nonzeroArg := by
  have hop : opField w ≠ 0x09 := fun hop => by rw [hop] at h; cases h
  simp [decode, hop, h]

/-- A reserved opcode is illegal with every argument (R93). -/
theorem decode_of_plainCommand_eq_none {w : Word} (hop : opField w ≠ 0x09)
    (h : plainCommand (opField w) = none) : decode w = .error .reservedOpcode := by
  simp [decode, hop, h]

/-- The opcodes outside the map of the commands without operand (R91, R93). -/
theorem plainCommand_eq_none_iff {op : Nat} :
    plainCommand op = none ↔ op = 0x09 ∨ op = 0x0D ∨ 0x10 ≤ op := by
  by_cases h : op < 0x10
  · revert op; decide
  · obtain ⟨k, rfl⟩ := Nat.exists_eq_add_of_le' (Nat.not_lt.1 h)
    exact iff_of_true rfl (.inr (.inr (Nat.le_add_left _ _)))

/-- A command is `HEXOFF`, or it stands in the map at its opcode and has no operand (R91, R92). -/
theorem eq_hexoff_or_plainCommand_opcode (i : Instr) :
    (∃ idx, i = .hexoff idx) ∨ plainCommand (opcode i) = some i ∧ argument i = 0 := by
  cases i with
  | hexoff idx => exact .inl ⟨idx, rfl⟩
  | _ => exact .inr ⟨rfl, rfl⟩

/-- A command is well formed when its argument fits the word's 24 bits (R90, R92). -/
theorem wellFormed_iff {i : Instr} : i.wellFormed = true ↔ argument i < 2 ^ 24 := by
  cases i with
  | hexoff idx => exact decide_eq_true_iff
  | _ => exact iff_of_true rfl (by decide)

/-- The fields of a well-formed command's word are its opcode and its argument (R90). -/
theorem wordFields (i : Instr) : Laws.WordFields.Statement i := by
  cases i with
  | nop => exact Laws.WordFields.nop
  | rate => exact Laws.WordFields.rate
  | quant => exact Laws.WordFields.quant
  | resamp => exact Laws.WordFields.resamp
  | align => exact Laws.WordFields.align
  | push => exact Laws.WordFields.push
  | lsingle => exact Laws.WordFields.lsingle
  | lstack => exact Laws.WordFields.lstack
  | lequal => exact Laws.WordFields.lequal
  | hexoff idx => exact Laws.WordFields.hexoff idx
  | hexslot => exact Laws.WordFields.hexslot
  | ser => exact Laws.WordFields.ser
  | conv => exact Laws.WordFields.conv
  | clear => exact Laws.WordFields.clear
  | reset => exact Laws.WordFields.reset

/-- Settles O1: the word has the command's opcode and argument in its fields, and the opcode selects
the command. -/
theorem decodeEncodeRoundTrip : Obligations.DecodeEncodeRoundTrip := by
  intro i hwf
  obtain ⟨hop, harg⟩ := wordFields i hwf
  obtain ⟨idx, rfl⟩ | ⟨hplain, hzero⟩ := eq_hexoff_or_plainCommand_opcode i
  · rw [decode_of_opField_eq_nine hop, harg]
    rfl
  · rw [decode_of_plainCommand_eq_some (hop ▸ hplain), if_pos (harg.trans hzero)]

/-- What a word decodes to has an index of 24 bits (R90, R92). -/
theorem wellFormed_of_decode {w : Word} {i : Instr} (h : decode w = .ok i) :
    i.wellFormed = true := by
  rw [wellFormed_iff]
  by_cases hop : opField w = 0x09
  · cases (decode_of_opField_eq_nine hop).symm.trans h
    exact argField_lt w
  · cases hplain : plainCommand (opField w) with
    | none => cases (decode_of_plainCommand_eq_none hop hplain).symm.trans h
    | some j =>
      rw [decode_of_plainCommand_eq_some hplain] at h
      split_ifs at h
      cases h
      rw [(plainCommand_eq_some hplain).2]
      decide

/-- Settles O2: the word and the word of its command both decode to the command, and a command's
opcode and argument leave one word. -/
theorem encodeDecodeRoundTrip : Obligations.EncodeDecodeRoundTrip := by
  intro w i h
  have hwf := wellFormed_of_decode h
  have hword := toNat_of_decode (decodeEncodeRoundTrip i hwf)
  exact ⟨hwf, BitVec.eq_of_toNat_eq (hword.trans (toNat_of_decode h).symm)⟩

/-- Settles O3: each clause is one of the verdicts, its opcodes read off the map. -/
theorem decodeVerdicts : Obligations.DecodeVerdicts := by
  rintro w _ _ rfl rfl
  rw [← opField_eq, ← argField_eq]
  refine ⟨decode_of_opField_eq_nine, fun row hrow hop harg => ?_, fun hop => ?_, ?_⟩
  · have hmap : plainCommand row.1 = some row.2 := by
      clear hop
      revert row
      decide
    rw [decode_of_plainCommand_eq_some (hop ▸ hmap), if_pos harg]
  · exact decode_of_plainCommand_eq_none (by omega) (plainCommand_eq_none_iff.2 (.inr hop))
  · rintro ⟨hle, hhexoff, hgap, harg⟩
    have hsome : plainCommand (opField w) ≠ none := by
      rw [Ne, plainCommand_eq_none_iff]
      omega
    obtain ⟨i, hplain⟩ := Option.ne_none_iff_exists'.1 hsome
    rw [decode_of_plainCommand_eq_some hplain, if_neg harg]

/-- Settles O4: the words are evaluated. -/
theorem decodedWords : Obligations.DecodedWords := by
  unfold Obligations.DecodedWords
  decide

/-! ### Running a script (R62, R98)

The host's operations act on the block before it alone, so a run follows the script with the block's
state beside it. -/

/-- The same block before a host that plans `script`. -/
def withScript (script : List HostOp) (s : State) : State := { s with script := script }

/-- An operation that takes the block from `s` to `t`, whatever is planned after it, is the first
step of a run. -/
theorem run_cons {op : HostOp} {s t : State}
    (h : ∀ script, hostOp op (withScript script s) = .next (withScript script t))
    (k : Nat) (rest : List HostOp) :
    core.run (k + 1) (withScript (op :: rest) s) = core.run k (withScript rest t) := by
  have hstep : core.step (withScript (op :: rest) s) = .next (withScript rest t) :=
    (step_cons (s := withScript (op :: rest) s) rfl).trans (h rest)
  simp only [Host.Core.run, hstep]

theorem run_setBytes {b : ByteBuf} {bytes : List Byte} (hb : hostWritable b = true)
    (hlen : bytes.length ≤ byteLimit b) (k : Nat) (rest : List HostOp) (s : State) :
    core.run (k + 1) (withScript (.setBytes b bytes :: rest) s)
      = core.run k (withScript rest (storeBytes b bytes s)) := by
  refine run_cons (fun script => ?_) k rest
  rw [hostOp, hostSetBytes, if_neg (ne_false_of_eq_true hb), if_neg (Nat.not_lt.2 hlen)]
  cases b <;> rfl

theorem run_setSamples {b : SampleBuf} {xs : List Sample} (hlen : xs.length ≤ Config.lenMax)
    (k : Nat) (rest : List HostOp) (s : State) :
    core.run (k + 1) (withScript (.setSamples b xs :: rest) s)
      = core.run k (withScript rest (storeSamples b xs s)) := by
  refine run_cons (fun script => ?_) k rest
  rw [hostOp, hostSetSamples, if_neg (Nat.not_lt.2 hlen)]
  cases b <;> rfl

theorem writeReg_withScript (r : Nat) (v : Word) (script : List HostOp) (s : State) :
    writeReg r v (withScript script s) = withScript script (writeReg r v s) := by
  unfold writeReg; split <;> rfl

theorem run_writeReg {r : Nat} (hr : r ≠ 0) (v : Word) (k : Nat) (rest : List HostOp) (s : State) :
    core.run (k + 1) (withScript (.writeReg r v :: rest) s)
      = core.run k (withScript rest (writeReg r v s)) := by
  refine run_cons (fun script => ?_) k rest
  rw [hostOp_writeReg hr, writeReg_withScript]

/-- A command leaves what the host was last given (R2). -/
theorem effect_reply (i : Instr) (s : State) : (effect i s).reply = s.reply :=
  (congrArg State.reply (effect_withHostSide s.script s.reply s i) :)

theorem effect_withScript (i : Instr) (script : List HostOp) (s : State) :
    effect i (withScript script s) = withScript script (effect i s) := by
  calc effect i (withScript script s)
    _ = withHostSide script s.reply (effect i s) := effect_withHostSide script s.reply s i
    _ = withScript script (effect i s) := by rw [← effect_reply i s]; rfl

/-- A command presented by its own word is executed (R62, R91). -/
theorem hostOp_present {i : Instr} (hwf : i.wellFormed = true) (s : State) :
    hostOp (present i) s = exec i s :=
  hostCommand_of_decode (decodeEncodeRoundTrip i hwf) s

/-- On a running block a presented command is its effect. -/
theorem run_present {i : Instr} {s : State} (hwf : i.wellFormed = true) (hrun : s.fcode = 0)
    (k : Nat) (rest : List HostOp) :
    core.run (k + 1) (withScript (present i :: rest) s)
      = core.run k (withScript rest (effect i s)) := by
  refine run_cons (fun script => ?_) k rest
  rw [hostOp_present hwf, exec_running i (s := withScript script s) hrun, effect_withScript]

/-- `CLEAR` executes from every state (R214). -/
theorem run_present_clear (k : Nat) (rest : List HostOp) (s : State) :
    core.run (k + 1) (withScript (present .clear :: rest) s)
      = core.run k (withScript rest (clearRun s)) :=
  run_cons (fun _ => hostOp_present rfl _) k rest

/-! ### The unit contracts (R98) -/

/-- The rate of a table entry fits its register (R40, R121). -/
theorem rate_toNat (e : Config.NoteEntry) :
    (BitVec.ofNat 32 (Config.params.clockHz / e.period)).toNat = Config.params.clockHz / e.period :=
  Nat.mod_eq_of_lt ((Nat.div_le_self _ _).trans_lt Config.clockHz_lt)

theorem resampEffect_of_fits {s : State} (hsrc : s.srcHz ≠ 0)
    (hfit : resampleOverflows s.inBuf.length s.srcHz.toNat s.dstHz.toNat = false) :
    resampEffect s = { s with rs := zoh s.inBuf s.srcHz.toNat s.dstHz.toNat } :=
  (if_neg hsrc).trans (if_neg (ne_true_of_eq_false hfit))

theorem alignEffect_of_le {s : State} (h : s.areg.toNat ≤ Config.lenMax) :
    alignEffect s = { s with areg := BitVec.ofNat 32 (align s.areg.toNat) } :=
  if_neg (Nat.not_lt.2 h)

section
variable {s : State} (hrun : s.fcode = 0)
include hrun

theorem run_rateForNoteScript {e : Config.NoteEntry} (he : e ∈ Config.params.noteRom) :
    ∃ t, core.run 2 (withScript (rateForNoteScript e.key) s) = .next t ∧
      t.dstHz.toNat = Config.params.clockHz / e.period := by
  obtain ⟨-, hkey, -⟩ := Config.noteRom_legal he
  have heffect : effect .rate (storeBytes .note e.key s) = _ :=
    rateEffect_of_rateOf (rateOf_of_mem he)
  rw [rateForNoteScript, run_setBytes rfl hkey, run_present rfl, heffect]
  · exact ⟨_, rfl, rate_toNat e⟩
  · exact hrun

theorem run_quantizeScript {samples : List Sample} (hlen : samples.length ≤ Config.lenMax) :
    ∃ t, core.run 2 (withScript (quantizeScript samples) s) = .next t ∧
      t.q = samples.map quant := by
  rw [quantizeScript, run_setSamples hlen, run_present rfl]
  · exact ⟨_, rfl, rfl⟩
  · exact hrun

theorem run_resampleScript {input : List Sample} {src dst : Word}
    (hlen : input.length ≤ Config.lenMax) (hsrc : src ≠ 0)
    (hfit : resampleOverflows input.length src.toNat dst.toNat = false) :
    ∃ t, core.run 4 (withScript (resampleScript input src dst) s) = .next t ∧
      t.rs = zoh input src.toNat dst.toNat := by
  have heffect : effect .resamp (writeReg 6 dst (writeReg 4 src (storeSamples .inBuf input s))) = _ :=
    resampEffect_of_fits hsrc hfit
  rw [resampleScript, run_setSamples hlen, run_writeReg (by decide), run_writeReg (by decide),
    run_present rfl, heffect]
  · exact ⟨_, rfl, rfl⟩
  · exact hrun

theorem run_alignScript {len : Word} (hlen : len.toNat ≤ Config.lenMax) :
    ∃ t, core.run 2 (withScript (alignScript len) s) = .next t ∧
      t.areg.toNat = align len.toNat := by
  have heffect : effect .align (writeReg 7 len s) = _ := alignEffect_of_le hlen
  rw [alignScript, run_writeReg (by decide), run_present rfl, heffect]
  · exact ⟨_, rfl, align_toNat hlen⟩
  · exact hrun

end

/-- Settles O53: each script stages its operands and executes one command, none of whose checks
fails. -/
theorem unitContractScripts : Obligations.UnitContractScripts := by
  intro s hrun
  exact ⟨fun _ he => run_rateForNoteScript hrun he, fun _ hlen => run_quantizeScript hrun hlen,
    fun _ _ _ hlen hsrc hfit => run_resampleScript hrun hlen hsrc hfit,
    fun _ hlen => run_alignScript hrun hlen⟩

/-! ### The closed form of the stacked layout (R167, R168) -/

theorem paddedTotal_eq_sum (ps : List (List Byte)) :
    paddedTotal ps = (ps.map fun p => align p.length).sum := by
  induction ps with
  | nil => rfl
  | cons p ps ih => simp [paddedTotal, ih]

/-- A part filled to its own padded length (R79, R161). -/
theorem padTo_align (p : List Byte) :
    padTo (align p.length) p = p ++ List.replicate ((256 - p.length % 256) % 256) 0 := by
  have hfill : align p.length - p.length = (256 - p.length % 256) % 256 := by
    unfold align; omega
  rw [padTo, hfill]
  rfl

theorem stackedFrom_lay (total : Nat) (ps : List (List Byte)) :
    (stackedFrom total ps).1
      = ps.flatMap fun p => p ++ List.replicate ((256 - p.length % 256) % 256) 0 := by
  induction ps generalizing total with
  | nil => rfl
  | cons p ps ih => rw [stackedFrom, ih, padTo_align, List.flatMap_cons]

/-- Offset `i` is the running total after the `i` parts before it. -/
theorem stackedFrom_offs (total : Nat) (ps : List (List Byte)) :
    (stackedFrom total ps).2
      = (List.range ps.length).map fun i =>
          total + ((ps.take i).map fun p => align p.length).sum := by
  induction ps generalizing total with
  | nil => rfl
  | cons p ps ih =>
    simp [stackedFrom, ih, List.range_succ_eq_map, Function.comp_def, Nat.add_assoc]

/-- `LSTACK` within `LEN_MAX` stores the parts back to back and the sums before them (R167). -/
theorem lstackEffect_of_fits {s : State} {ps : List (List Byte)} (hparts : parts s = ps)
    (hfit : (ps.map fun p => align p.length).sum ≤ Config.lenMax) :
    lstackEffect s = storeLayout
      (ps.flatMap fun p => p ++ List.replicate ((256 - p.length % 256) % 256) 0)
      ((List.range ps.length).map fun i => ((ps.take i).map fun p => align p.length).sum) 0 s := by
  rw [← paddedTotal_eq_sum, ← Nat.not_lt] at hfit
  rw [lstackEffect, hparts, if_neg hfit, stackedFrom_lay, stackedFrom_offs]
  simp only [Nat.zero_add]

/-! ### The script of the stacked layout (R98) -/

/-- The block after a part has been loaded into `Q` and pushed into a table with room (R164). -/
def pushedPart (p : List Byte) (s : State) : State :=
  appendSegment (stagedSegment (storeBytes .q p s)) (storeBytes .q p s)

theorem parts_pushedPart (p : List Byte) (s : State) :
    parts (pushedPart p s) = parts s ++ [p] := by
  simp [parts, pushedPart, stagedSegment, storeBytes]

theorem pushEffect_of_room {s : State} (h : s.seg.length < Config.segMax) :
    pushEffect s = appendSegment (stagedSegment s) s := if_neg (Nat.not_le.2 h)

/-- The two operations of one part (R98). -/
theorem run_pushPart {s : State} {p : List Byte} (hrun : s.fcode = 0)
    (hp : p.length ≤ Config.lenMax) (hroom : (parts s).length < Config.segMax) (k : Nat)
    (rest : List HostOp) :
    core.run (k + 2) (withScript (.setBytes .q p :: present .push :: rest) s)
      = core.run k (withScript rest (pushedPart p s)) := by
  have hpush : effect .push (storeBytes .q p s) = pushedPart p s :=
    pushEffect_of_room (parts_length s ▸ hroom)
  rw [run_setBytes rfl hp, run_present rfl, hpush]
  exact hrun

/-- The operations of all parts append them in order, while the table has room. -/
theorem run_pushParts {s : State} {ps : List (List Byte)} (hrun : s.fcode = 0)
    (hlen : ∀ p ∈ ps, p.length ≤ Config.lenMax)
    (hroom : (parts s).length + ps.length ≤ Config.segMax) (k : Nat) (rest : List HostOp) :
    ∃ t : State, core.run (2 * ps.length + k) (withScript (pushParts ps ++ rest) s)
        = core.run k (withScript rest t) ∧
      t.fcode = 0 ∧ parts t = parts s ++ ps := by
  induction ps generalizing s with
  | nil => exact ⟨s, by simp [pushParts], hrun, by simp⟩
  | cons p ps ih =>
    obtain ⟨hp, hps⟩ := List.forall_mem_cons.1 hlen
    rw [List.length_cons] at hroom
    obtain ⟨t, ht, htrun, htparts⟩ := ih (s := pushedPart p s) hrun hps (by
      rw [parts_pushedPart, List.length_append, List.length_singleton]; omega)
    refine ⟨t, ?_, htrun, by simp [htparts, parts_pushedPart]⟩
    calc core.run (2 * (ps.length + 1) + k) (withScript (pushParts (p :: ps) ++ rest) s)
      _ = core.run (2 * ps.length + k + 2)
            (withScript (.setBytes .q p :: present .push :: (pushParts ps ++ rest)) s) := by
          rw [Nat.mul_succ, Nat.add_right_comm]; rfl
      _ = core.run (2 * ps.length + k) (withScript (pushParts ps ++ rest) (pushedPart p s)) :=
          run_pushPart hrun hp (by omega) _ _
      _ = core.run k (withScript rest t) := ht

/-- Settles O54: `CLEAR` gives an empty running block from any state, the parts are pushed one by one,
and `LSTACK` lays them out. (The obligation's name is that of the script itself.) -/
theorem run_buildStackedScript : Obligations.BuildStackedScript := by
  intro s ps hlen hroom hsum
  obtain ⟨t, hpush, hrun, hparts⟩ := run_pushParts (s := clearRun s) rfl hlen
    (by simpa [parts] using hroom) 1 [present .lstack]
  replace hparts : parts t = ps := hparts
  have hstack : effect .lstack t = _ := lstackEffect_of_fits hparts hsum
  refine ⟨withScript [] (effect .lstack t), ?_, ?_⟩
  · calc core.run (2 * ps.length + 1 + 1) (withScript (buildStackedScript ps) s)
      _ = core.run (2 * ps.length + 1)
            (withScript (pushParts ps ++ [present .lstack]) (clearRun s)) := run_present_clear _ _ s
      _ = core.run 0 (withScript [] (effect .lstack t)) := by rw [hpush, run_present rfl hrun]
  · rw [hstack]
    exact ⟨hparts, rfl, List.map_map ..⟩

end Sys2Proof.Machine

/-!
PROOFS. The statements of 40_rate_table.md: where the rate of a key is defined (R120, R121), and what
RATE does with it (R122, R231).
-/

namespace Sys2Proof.Machine

/-- A string that is no key has no rate (R121). -/
theorem rateOf_of_not_mem {p : Config.Params} {k : List Byte} (h : ∀ e ∈ p.noteRom, e.key ≠ k) :
    rateOf p k = none := by
  rw [rateOf, lookup_of_not_mem h, Option.map_none]

/-- Settles O16: the lookup finds a key's own entry, whose rate fits 32 bits, and finds no other
string. -/
theorem rateDefinedOnTableKeys : Obligations.RateDefinedOnTableKeys :=
  ⟨fun e he => ⟨_, rateOf_of_mem he, rate_toNat e⟩, fun _ hk => rateOf_of_not_mem hk⟩

/-- Settles O17: a running block executes `RATE`, which stores the rate of `NOTE` where it is defined
and enters the fault where it is not. -/
theorem rateLooksUpTheNote : Obligations.RateLooksUpTheNote := by
  refine ⟨by decide, fun s hrun => ⟨fun e he hkey => ?_, fun hnote => ?_⟩⟩
  · have hrate : rateOf Config.params s.note = some _ := hkey ▸ rateOf_of_mem he
    refine ⟨_, rate_toNat e, ?_⟩
    rw [exec_running .rate hrun]
    exact congrArg Host.Outcome.next (rateEffect_of_rateOf hrate)
  · rw [exec_running .rate hrun]
    exact congrArg Host.Outcome.next (rateEffect_of_rateOf_eq_none (rateOf_of_not_mem hnote))

end Sys2Proof.Machine

/-!
PROOFS. The statements of 41_quantizer.md: what QUANT does with the samples (R130 to R132), and the
quantizer's bit-level form (R133).
-/

namespace Sys2Proof.Machine

/-- The biased sample divided by 256 fits a byte, so it is the byte's value (R131). -/
theorem quant_toNat (x : Sample) : ((quant x).toNat : Int) = (x.toInt + 32768) / 256 := by
  have hlow : -32768 ≤ x.toInt := BitVec.le_toInt x
  have hhigh : x.toInt < 32768 := BitVec.toInt_lt
  rw [quant, BitVec.toNat_ofInt]
  omega

/-- Inverting the top bit of a byte adds it, for the carry out of bit 7 is lost (R133). -/
theorem byte_xor_topBit : ∀ b : Byte, b ^^^ 0x80 = b + 128#8 := by decide

/-- Settles O19: the byte list is `quantize s.rs`, element by element. -/
theorem quantBiasesAndShifts : Obligations.QuantBiasesAndShifts := by
  refine ⟨by decide, fun s hrun => ⟨quantize s.rs, exec_running .quant hrun, quantize_length _, ?_⟩⟩
  intro k x hx
  exact ⟨quant x, by rw [quantize, List.getElem?_map, hx, Option.map_some], quant_toNat x⟩

/-- Settles O20: biasing by 32768 adds 128 to the high byte, which inverts its top bit. -/
theorem quantIsHighByteInverted : Obligations.QuantIsHighByteInverted := by
  intro x
  have hbyte := quant_toNat x
  have hsigned := BitVec.toInt_eq_toNat_cond x
  rw [byte_xor_topBit]
  apply BitVec.eq_of_toNat_eq
  rw [BitVec.toNat_add, BitVec.extractLsb'_toNat, Nat.shiftRight_eq_div_pow, BitVec.toNat_ofNat]
  omega

end Sys2Proof.Machine

/-!
PROOFS. The statements of 42_resampler.md: the loop's closed form (R142 to R144, R147, R148), what it
gives for equal rates, for any input and for an impulse (R140, R151, R152), and what RESAMP does with
it (R141, R145, R150, R237).
-/

namespace Sys2Proof.Machine

/-! ### The accumulator (R143, R147) -/

/-- A cursor clamped on the way is clamped no further than one clamped at the end (R143). -/
theorem min_min_add (idx last k : Nat) : min (min idx last + k) last = min (idx + k) last := by
  omega

/-- With fuel for every pass the inner loop is a division, its cursor clamped (R143). -/
theorem advance_eq {d : Nat} (hd : 0 < d) {last fuel acc idx : Nat} (hfuel : acc ≤ fuel)
    (hidx : idx ≤ last) :
    advance d last fuel acc idx = (acc % d, min (idx + acc / d) last) := by
  induction fuel generalizing acc idx with
  | zero =>
    obtain rfl : acc = 0 := Nat.le_zero.1 hfuel
    simp [advance, hidx]
  | succ fuel ih =>
    unfold advance
    split_ifs with hpass
    · have hdiv : acc / d = (acc - d) / d + 1 := Nat.div_eq_sub_div hd hpass
      rw [ih (by omega) (Nat.min_le_right _ _), min_min_add, ← Nat.mod_eq_sub_mod hpass, hdiv,
        Nat.add_right_comm, Nat.add_assoc]
    · rw [Nat.mod_eq_of_lt (Nat.lt_of_not_le hpass), Nat.div_eq_of_lt (Nat.lt_of_not_le hpass),
        Nat.add_zero, Nat.min_eq_left hidx]

/-- Settles O24: an accumulator below `dst` makes `dst` positive, and both terms are below 2^32. -/
theorem accumulatorStep : Obligations.AccumulatorStep := by
  intro src dst last acc idx hsrc hdst hacc hidx
  exact ⟨by omega, advance_eq (Nat.zero_lt_of_lt hacc) (Nat.le_refl _) hidx⟩

/-- At position `m` the accumulator holds the remainder of `m * s` by `d` and the cursor the clamped
quotient; one advance takes both to position `m + 1` (R144). -/
theorem advance_position {d : Nat} (hd : 0 < d) (s last m : Nat) :
    advance d last (m * s % d + s) (m * s % d + s) (min (m * s / d) last)
      = ((m + 1) * s % d, min ((m + 1) * s / d) last) := by
  have hquot : (m + 1) * s / d = m * s / d + (m * s % d + s) / d := by
    rw [← Nat.mul_add_div hd, ← Nat.add_assoc, Nat.div_add_mod, Nat.succ_mul]
  rw [advance_eq hd (Nat.le_refl _) (Nat.min_le_right _ _), min_min_add, Nat.mod_add_mod,
    ← Nat.succ_mul, hquot]

/-! ### The closed form (R142, R144, R148) -/

/-- At every position below the output length the quotient lies inside the input (R148). -/
theorem mul_lt_of_lt_outlen {len s d n : Nat} (hs : 0 < s) (hn : n < outlen len s d) :
    n * s < len * d := by
  have hmul : (n + 1) * (2 * s) ≤ 2 * len * d + s :=
    (Nat.le_div_iff_mul_le (Nat.mul_pos Nat.two_pos hs)).1 hn
  rw [Nat.mul_left_comm, Nat.succ_mul n, Nat.mul_assoc] at hmul
  omega

/-- While the positions stay inside the input, each emits the sample at its own quotient (R144). -/
theorem zohLoop_map_some {x : List Sample} {s d m n : Nat}
    (hin : ∀ k < m + n, k * s < x.length * d) :
    (zohLoop x s d n (m * s % d) (min (m * s / d) (x.length - 1))).map some
      = (List.range' m n).map fun k => x[k * s / d]? := by
  induction n generalizing m with
  | zero => rfl
  | succ n ih =>
    have hm : m * s < x.length * d := hin m (by omega)
    have hd : 0 < d := Nat.pos_of_lt_mul_left hm
    have hlt : m * s / d < x.length := (Nat.div_lt_iff_lt_mul hd).2 hm
    rw [zohLoop, advance_position hd, Nat.min_eq_left (Nat.le_sub_one_of_lt hlt), List.map_append,
      ih fun k hk => hin k (by omega), List.range'_succ, List.map_cons,
      List.getElem?_eq_getElem hlt]
    rfl

/-- The whole loop, from `acc = 0` and `idx = 0` (R143, R144). -/
theorem zohLoop_outlen_map_some (x : List Sample) {s : Nat} (hs : 0 < s) (d : Nat) :
    (zohLoop x s d (outlen x.length s d) 0 0).map some
      = (List.range (outlen x.length s d)).map fun k => x[k * s / d]? := by
  have h := zohLoop_map_some (x := x) (s := s) (d := d) (m := 0) (n := outlen x.length s d)
    fun k hk => mul_lt_of_lt_outlen hs (by omega)
  simpa [List.range_eq_range'] using h

theorem zohLoop_outlen_length (x : List Sample) {s : Nat} (hs : 0 < s) (d : Nat) :
    (zohLoop x s d (outlen x.length s d) 0 0).length = outlen x.length s d := by
  simpa using congrArg List.length (zohLoop_outlen_map_some x hs d)

theorem zohLoop_outlen_getElem? {x : List Sample} {s d n : Nat} (hs : 0 < s)
    (hn : n < outlen x.length s d) :
    (zohLoop x s d (outlen x.length s d) 0 0)[n]? = x[n * s / d]? := by
  have h := congrArg (·[n]?) (zohLoop_outlen_map_some x hs d)
  simpa [hn, zohLoop_outlen_length x hs d] using h

/-- The fast path (R141). -/
@[simp] theorem zoh_self (x : List Sample) (r : Nat) : zoh x r r = x := if_pos rfl

theorem zoh_of_ne {s d : Nat} (h : s ≠ d) (x : List Sample) :
    zoh x s d = zohLoop x s d (outlen x.length s d) 0 0 := if_neg h

/-- Settles O22: the loop's positions stay inside the input, so each emits the sample at its own
quotient. -/
theorem zohClosedForm : Obligations.ZohClosedForm := by
  rintro x src dst len hsrc hne rfl
  rw [zoh_of_ne hne]
  refine ⟨zohLoop_outlen_length x hsrc dst, fun n hn => ⟨?_, zohLoop_outlen_getElem? hsrc hn⟩⟩
  have hin : n * src < x.length * dst := mul_lt_of_lt_outlen hsrc hn
  exact (Nat.div_lt_iff_lt_mul (Nat.pos_of_lt_mul_left hin)).2 hin

/-! ### Equal rates (R152), and samples of the input (R140) -/

theorem outlen_self (len : Nat) {r : Nat} (hr : 0 < r) : outlen len r r = len := by
  have hsplit : 2 * len * r + r = 2 * r * len + r := by ring
  rw [outlen, hsplit, Nat.mul_add_div (by omega), Nat.div_eq_of_lt (by omega), Nat.add_zero]

/-- Settles O25: at equal rates there are as many positions as samples, and position `n` emits sample
`n * r / r = n`. -/
theorem fastPathAgreesWithLoop : Obligations.FastPathAgreesWithLoop := by
  intro x r hr
  have hlen := outlen_self x.length hr
  refine ⟨hlen, List.ext_getElem? fun n => ?_⟩
  by_cases hn : n < x.length
  · rw [zohLoop_outlen_getElem? hr (hlen.symm ▸ hn), Nat.mul_div_cancel n hr]
  · rw [List.getElem?_eq_none (by rw [zohLoop_outlen_length x hr, hlen]; omega),
      List.getElem?_eq_none (by omega)]

/-- The loop emits samples of the input from every accumulator and cursor (R140). -/
theorem zohLoop_subset (x : List Sample) (s d n acc idx : Nat) : zohLoop x s d n acc idx ⊆ x := by
  induction n generalizing acc idx with
  | zero => exact List.nil_subset x
  | succ n ih =>
    have hemit : x[idx]?.toList ⊆ x := fun v hv =>
      List.mem_of_getElem? (Option.mem_toList.1 hv)
    exact List.append_subset.2 ⟨hemit, ih _ _⟩

/-- Settles O23: the fast path gives the input itself, and the loop emits nothing else. -/
theorem zohHoldsInputSamples : Obligations.ZohHoldsInputSamples := by
  intro x src dst _ v hv
  by_cases heq : src = dst
  · rwa [heq, zoh_self] at hv
  · rw [zoh_of_ne heq] at hv
    exact zohLoop_subset x src dst _ 0 0 hv

/-! ### The impulse law (R151) -/

theorem ceilDiv_le_iff {a b c : Nat} (hb : 0 < b) : ceilDiv a b ≤ c ↔ a ≤ b * c :=
  ceilDiv_le_iff_le_mul hb

theorem le_mul_ceilDiv {b : Nat} (hb : 0 < b) (a : Nat) : a ≤ b * ceilDiv a b :=
  (ceilDiv_le_iff hb).1 (Nat.le_refl _)

/-- The first position whose quotient reaches `k` (R144, R151). -/
theorem ceilDiv_mul_le_iff {s d : Nat} (hs : 0 < s) (hd : 0 < d) {k n : Nat} :
    ceilDiv (k * d) s ≤ n ↔ k ≤ n * s / d := by
  rw [ceilDiv_le_iff hs, Nat.le_div_iff_mul_le hd, Nat.mul_comm s]

/-- The ceiling grows by the floor or by the ceiling of what is added. -/
theorem ceilDiv_add_sub_ceilDiv {s : Nat} (hs : 0 < s) (a d : Nat) :
    ceilDiv (a + d) s - ceilDiv a s = d / s ∨ ceilDiv (a + d) s - ceilDiv a s = ceilDiv d s := by
  have hlow : ceilDiv a s + d / s ≤ ceilDiv (a + d) s := by
    have hshift : a + d + s - 1 = a + s - 1 + d := by omega
    rw [ceilDiv, ceilDiv, hshift]
    exact Nat.div_add_div_le_add_div
  have hhigh : ceilDiv (a + d) s ≤ ceilDiv a s + ceilDiv d s := by
    rw [ceilDiv_le_iff hs, Nat.mul_add]
    exact Nat.add_le_add (le_mul_ceilDiv hs a) (le_mul_ceilDiv hs d)
  have hgap : ceilDiv d s ≤ d / s + 1 :=
    (ceilDiv_le_iff hs).2 (Nat.lt_mul_div_succ d hs).le
  omega

/-- The run of a sample before the last ends inside the output (R151). -/
theorem ceilDiv_le_outlen {len s d j : Nat} (hs : 0 < s) (hsd : s < d) (hj : j + 2 ≤ len) :
    ceilDiv ((j + 1) * d) s ≤ outlen len s d := by
  have hround : 2 * len * d + s < 2 * s * (outlen len s d + 1) :=
    Nat.lt_mul_div_succ _ (Nat.mul_pos Nat.two_pos hs)
  have hbefore : (j + 1 + 1) * d ≤ len * d := Nat.mul_le_mul_right d hj
  rw [Nat.succ_mul] at hbefore
  rw [Nat.mul_succ, Nat.mul_assoc, Nat.mul_assoc] at hround
  rw [ceilDiv_le_iff hs]
  omega

/-- The samples of an impulse at `j`. -/
theorem getElem?_of_impulse {x : List Sample} {j : Nat} {v : Sample} (hj : x[j]? = some v)
    (hzero : ∀ k y, x[k]? = some y → k ≠ j → y = 0) {k : Nat} (hk : k < x.length) :
    x[k]? = some (if k = j then v else 0) := by
  split_ifs with heq
  · rw [heq, hj]
  · have hx := List.getElem?_eq_getElem hk
    rw [hx, hzero k _ hx heq]

/-- Settles O26: position `n` emits the impulse exactly when its quotient is `j`, and the positions
whose quotient reaches `j` and `j + 1` begin at the two ceilings. -/
theorem impulseLaw : Obligations.ImpulseLaw := by
  intro x src dst j len v hsrc hup hlen _ hj hzero
  have hd : 0 < dst := by omega
  obtain ⟨hlength, hclosed⟩ := zohClosedForm x src dst len hsrc (Nat.ne_of_lt hup) hlen
  refine ⟨hlength, fun n hn => ?_, fun hbefore => ⟨?_, ?_⟩⟩
  · obtain ⟨hin, hsample⟩ := hclosed n hn
    have hrun : ceilDiv (j * dst) src ≤ n ∧ n < ceilDiv ((j + 1) * dst) src ↔
        n * src / dst = j := by
      rw [← Nat.not_le, ceilDiv_mul_le_iff hsrc hd, ceilDiv_mul_le_iff hsrc hd]
      omega
    rw [hsample, getElem?_of_impulse hj hzero hin]
    simp only [hrun]
  · exact hlen ▸ ceilDiv_le_outlen hsrc hup hbefore
  · rw [Nat.succ_mul]
    exact ceilDiv_add_sub_ceilDiv hsrc (j * dst) dst

/-! ### RESAMP (R145, R150, R237) -/

/-- On the fast path the length is not asked (R141). -/
@[simp] theorem resampleOverflows_self (len r : Nat) : resampleOverflows len r r = false := by
  simp [resampleOverflows]

theorem resampleOverflows_of_ne {s d : Nat} (h : s ≠ d) (len : Nat) :
    resampleOverflows len s d = decide (Config.lenMax < outlen len s d) := by
  simp [resampleOverflows, h]

theorem resampEffect_of_srcHz_eq_zero {s : State} (h : s.srcHz = 0) :
    resampEffect s = raise .badOperand 1 s := if_pos h

theorem resampEffect_of_rates_eq {s : State} (hsrc : s.srcHz ≠ 0) (h : s.srcHz = s.dstHz) :
    resampEffect s = { s with rs := s.inBuf } := by
  rw [resampEffect_of_fits hsrc (by simp [h]), h, zoh_self]

theorem resampEffect_of_overflows {s : State} (hsrc : s.srcHz ≠ 0)
    (h : resampleOverflows s.inBuf.length s.srcHz.toNat s.dstHz.toNat = true) :
    resampEffect s = raise .overflow 1 s := (if_neg hsrc).trans (if_pos h)

/-- Settles O21: a running block executes `RESAMP`, whose checks are the three conditions in this
order. -/
theorem resampChecksThenResamples : Obligations.ResampChecksThenResamples := by
  refine ⟨by decide, ?_⟩
  rintro s len hrun rfl
  have hne (h : s.srcHz ≠ s.dstHz) : s.srcHz.toNat ≠ s.dstHz.toNat := BitVec.toNat_ne.1 h
  rw [exec_running .resamp hrun]
  refine ⟨fun h0 => ?_, fun hsrc heq => ?_, fun hsrc h hbig => ?_, fun hsrc h hfit => ?_⟩
  · exact congrArg Host.Outcome.next (resampEffect_of_srcHz_eq_zero h0)
  · exact congrArg Host.Outcome.next (resampEffect_of_rates_eq hsrc heq)
  · have hover := (resampleOverflows_of_ne (hne h) s.inBuf.length).trans (decide_eq_true hbig)
    exact congrArg Host.Outcome.next (resampEffect_of_overflows hsrc hover)
  · have hover := (resampleOverflows_of_ne (hne h) s.inBuf.length).trans
      (decide_eq_false (Nat.not_lt.2 hfit))
    exact congrArg Host.Outcome.next (resampEffect_of_fits hsrc hover)

end Sys2Proof.Machine

/-!
PROOFS. The statements of 43_alignment_stacking.md: ALIGN and the laws of align (R161 to R163), PUSH
(R164), the three layouts and their common invariants (R166 to R172), and page offsets as text (R173
to R176).
-/

namespace Sys2Proof.Machine

/-- On a running block a command ends in the state its effect gives. -/
theorem exec_eq_next (i : Instr) {s t : State} (hrun : s.fcode = 0) (h : effect i s = t) :
    exec i s = .next t := by
  rw [exec_running i hrun, h]

/-! ### align (R161 to R163) -/

theorem align_sub_le (n : Nat) : align n - n ≤ 255 := by
  unfold align; omega

theorem align_eq_self_iff {n : Nat} : align n = n ↔ n % 256 = 0 := by
  unfold align; omega

theorem align_mono {n p : Nat} (h : n ≤ p) : align n ≤ align p := by
  unfold align; omega

/-- Settles O28: none of the laws needs the bound. -/
theorem alignLaws : Obligations.AlignLaws := fun n _ _ _ =>
  ⟨align_mod n, le_align n, align_sub_le n, align_eq_self_iff, align_align n, align_mono⟩

/-- Clearing the low eight bits of a word leaves the multiple of 256 below it (R161). -/
theorem and_pageMask_toNat (x : Word) : (x &&& 0xFFFFFF00).toNat = 256 * (x.toNat / 256) := by
  have hmask : (0xFFFFFF00 : Word) = BitVec.allOnes 32 <<< 8 := by decide
  have hx := x.isLt
  rw [hmask, ← BitVec.shiftLeft_ushiftRight, BitVec.toNat_shiftLeft, BitVec.toNat_ushiftRight,
    Nat.shiftLeft_eq, Nat.shiftRight_eq_div_pow]
  omega

/-- Up to `LEN_MAX` the 32-bit form of R161 does not wrap. -/
theorem ofNat_align {x : Word} (h : x.toNat ≤ Config.lenMax) :
    BitVec.ofNat 32 (align x.toNat) = (x + 255) &&& 0xFFFFFF00 := by
  apply BitVec.eq_of_toNat_eq
  have hsum : (x + 255).toNat = x.toNat + 255 := by
    rw [BitVec.toNat_add_of_lt]
    · rfl
    · exact (Nat.add_le_add_right h 255).trans_lt (by decide)
  rw [align_toNat h, and_pageMask_toNat, hsum, align]

theorem alignEffect_of_gt {s : State} (h : Config.lenMax < s.areg.toNat) :
    alignEffect s = raise .overflow 4 s := if_pos h

/-- Settles O27: up to `LEN_MAX` the aligned length is the 32-bit sum with its low byte cleared. -/
theorem alignRoundsUp : Obligations.AlignRoundsUp := by
  refine ⟨by decide, fun s hrun => ⟨fun hfit => ?_, fun hbig => ?_⟩⟩
  · rw [exec_eq_next .align hrun (alignEffect_of_le hfit), ofNat_align hfit]
  · exact exec_eq_next .align hrun (alignEffect_of_gt hbig)

/-! ### PUSH (R164) -/

theorem pushEffect_of_full {s : State} (h : Config.segMax ≤ s.seg.length) :
    pushEffect s = raise .overflow 2 s := if_pos h

/-- Settles O29: the appended segment holds `Q`, so the warning follows its length. -/
theorem pushAppendsStagedSegment : Obligations.PushAppendsStagedSegment := by
  refine ⟨by decide, fun s hrun => ⟨fun hroom => ?_, fun hfull => ?_⟩⟩
  · refine ⟨_, exec_eq_next .push hrun (pushEffect_of_room hroom), rfl, fun hlong => ?_⟩
    exact warn_eq_true_iff.2 ⟨stagedSegment s, by simp, hlong⟩
  · exact exec_eq_next .push hrun (pushEffect_of_full hfull)

/-! ### Slots

Each layout gives every segment a slot, its payload filled up to the slot's width, and puts the
slots one after the other. The widths are the padded lengths (R166, R167) or all the same (R169). -/

/-- The width of a slot in the Single and the Stacked layout: W2A's `paddedLengthBytes`. -/
def paddedLength (g : Segment) : Nat := align g.data.length

/-- The payloads of `gs`, each filled up to the width `w` gives it. -/
def slotBuffer (w : Segment → Nat) (gs : List Segment) : List Byte :=
  gs.flatMap fun g => padTo (w g) g.data

/-- Where slot `i` starts: after the widths of the slots before it. -/
def slotStart (w : Segment → Nat) (gs : List Segment) (i : Nat) : Nat := ((gs.take i).map w).sum

/-- The starts of all slots, as `OFFS` holds them. -/
def slotOffsets (w : Segment → Nat) (gs : List Segment) : List Word :=
  (List.range gs.length).map fun i => BitVec.ofNat 32 (slotStart w gs i)

/-- The state that holds the layout of its segments in slots of width `w`. -/
def slotLayout (w : Segment → Nat) (slot : Word) (s : State) : State :=
  { s with lay := slotBuffer w s.seg, offs := slotOffsets w s.seg, slot := slot }

/-- Every slot is aligned, has room for the padded payload, and starts at a 32-bit offset. -/
structure SlotsFit (w : Segment → Nat) (gs : List Segment) : Prop where
  room    : ∀ g ∈ gs, align g.data.length ≤ w g
  aligned : ∀ g ∈ gs, w g % 256 = 0
  starts  : ∀ i < gs.length, slotStart w gs i < 2 ^ 32

section
variable {w : Segment → Nat}

@[simp] theorem slotStart_zero (gs : List Segment) : slotStart w gs 0 = 0 := rfl

@[simp] theorem slotStart_cons_succ (g : Segment) (gs : List Segment) (i : Nat) :
    slotStart w (g :: gs) (i + 1) = w g + slotStart w gs i := by
  simp [slotStart]

theorem slotStart_length (gs : List Segment) : slotStart w gs gs.length = (gs.map w).sum := by
  rw [slotStart, List.take_length]

/-- The next slot starts where this one ends. -/
theorem slotStart_succ {gs : List Segment} {i : Nat} {g : Segment} (hg : gs[i]? = some g) :
    slotStart w gs (i + 1) = slotStart w gs i + w g := by
  simp [slotStart, List.take_add_one, hg]

/-- No slot starts behind the end of the last one. -/
theorem slotStart_le_sum (gs : List Segment) (i : Nat) : slotStart w gs i ≤ (gs.map w).sum :=
  ((List.take_sublist i gs).map w).sum_le_sum fun _ _ => Nat.zero_le _

/-- Sums of multiples of 256 are multiples of 256. -/
theorem sum_map_mod {gs : List Segment} (h : ∀ g ∈ gs, w g % 256 = 0) :
    (gs.map w).sum % 256 = 0 := by
  refine Nat.mod_eq_zero_of_dvd (List.dvd_sum fun n hn => ?_)
  obtain ⟨g, hg, rfl⟩ := List.mem_map.1 hn
  exact Nat.dvd_of_mod_eq_zero (h g hg)

theorem slotStart_mod {gs : List Segment} (h : ∀ g ∈ gs, w g % 256 = 0) (i : Nat) :
    slotStart w gs i % 256 = 0 := sum_map_mod fun g hg => h g (List.mem_of_mem_take hg)

@[simp] theorem slotBuffer_cons (g : Segment) (gs : List Segment) :
    slotBuffer w (g :: gs) = padTo (w g) g.data ++ slotBuffer w gs := List.flatMap_cons

theorem padTo_length_of_room {g : Segment} (h : align g.data.length ≤ w g) :
    (padTo (w g) g.data).length = w g := by
  rw [padTo_length, Nat.max_eq_right ((le_align _).trans h)]

/-- The buffer ends where the last slot does. -/
theorem slotBuffer_length {gs : List Segment} (h : ∀ g ∈ gs, align g.data.length ≤ w g) :
    (slotBuffer w gs).length = (gs.map w).sum := by
  induction gs with
  | nil => rfl
  | cons g gs ih =>
    obtain ⟨hg, hgs⟩ := List.forall_mem_cons.1 h
    rw [slotBuffer_cons, List.length_append, padTo_length_of_room hg, ih hgs, List.map_cons,
      List.sum_cons]

/-- Inside slot `i` the buffer holds that segment's filled payload. -/
theorem slotBuffer_getElem? {gs : List Segment} (h : ∀ g ∈ gs, align g.data.length ≤ w g)
    {i j : Nat} {g : Segment} (hg : gs[i]? = some g) (hj : j < w g) :
    (slotBuffer w gs)[slotStart w gs i + j]? = (padTo (w g) g.data)[j]? := by
  induction gs generalizing i with
  | nil => cases hg
  | cons g' gs ih =>
    obtain ⟨hroom, hgs⟩ := List.forall_mem_cons.1 h
    have hlen := padTo_length_of_room hroom
    cases i with
    | zero =>
      cases hg
      rw [slotBuffer_cons, slotStart_zero, Nat.zero_add,
        List.getElem?_append_left (hj.trans_eq hlen.symm)]
    | succ i =>
      rw [slotBuffer_cons, slotStart_cons_succ, Nat.add_assoc,
        List.getElem?_append_right (hlen.trans_le (Nat.le_add_right _ _)), hlen,
        Nat.add_sub_cancel_left, ih hgs hg]

/-- Every position of the buffer lies in a slot. -/
theorem exists_slot_of_lt {gs : List Segment} {k : Nat} (hk : k < (gs.map w).sum) :
    ∃ i g j, gs[i]? = some g ∧ j < w g ∧ k = slotStart w gs i + j := by
  induction gs generalizing k with
  | nil => cases hk
  | cons g gs ih =>
    by_cases hfirst : k < w g
    · exact ⟨0, g, k, rfl, hfirst, (Nat.zero_add k).symm⟩
    · rw [List.map_cons, List.sum_cons] at hk
      obtain ⟨i, g', j, hg', hj, hkj⟩ := ih (k := k - w g) (by omega)
      exact ⟨i + 1, g', j, hg', hj, by rw [slotStart_cons_succ]; omega⟩

theorem slotOffsets_length (gs : List Segment) : (slotOffsets w gs).length = gs.length := by
  simp [slotOffsets]

/-- An offset of the list is its slot's start, which 32 bits hold. -/
theorem toNat_of_slotOffsets_getElem? {gs : List Segment} (hfit : SlotsFit w gs) {i : Nat}
    {o : Word} (ho : (slotOffsets w gs)[i]? = some o) : o.toNat = slotStart w gs i := by
  obtain ⟨hi, rfl⟩ := List.getElem?_eq_some_iff.1 ho
  rw [slotOffsets_length] at hi
  simpa [slotOffsets] using hfit.starts i hi

/-- A payload stands at the front of its slot. -/
theorem padTo_getElem?_of_lt {n j : Nat} {payload : List Byte} (hj : j < payload.length) :
    (padTo n payload)[j]? = payload[j]? := List.getElem?_append_left hj

/-- The rest of the slot is zero fill (R79). -/
theorem padTo_getElem?_of_ge {n j : Nat} {payload : List Byte} (hj : payload.length ≤ j)
    (hn : j < n) : (padTo n payload)[j]? = some 0 := by
  have hfill : j - payload.length < n - payload.length := by omega
  rw [padTo, List.getElem?_append_right hj, zeros, List.getElem?_replicate, if_pos hfill]
  rfl

/-- Payloads in slots that fit are a finished layout (R172). -/
theorem laidOut_of_slotsFit {gs : List Segment} (hfit : SlotsFit w gs) :
    LaidOut gs (slotOffsets w gs) (slotBuffer w gs) := by
  have hstart {i : Nat} {o : Word} (ho : (slotOffsets w gs)[i]? = some o) :
      o.toNat = slotStart w gs i := toNat_of_slotOffsets_getElem? hfit ho
  have hroom {i : Nat} {g : Segment} (hg : gs[i]? = some g) : align g.data.length ≤ w g :=
    hfit.room g (List.mem_of_getElem? hg)
  have hlen := slotBuffer_length hfit.room
  constructor
  case count => exact slotOffsets_length gs
  case aligned =>
    intro o ho
    obtain ⟨i, hi⟩ := List.mem_iff_getElem?.1 ho
    rw [hstart hi]
    exact slotStart_mod hfit.aligned i
  case first =>
    intro hne
    have hpos : 0 < gs.length := List.length_pos_iff.2 hne
    simp [slotOffsets, hpos]
  case ordered =>
    intro i g o o' hg ho ho'
    rw [hstart ho, hstart ho', slotStart_succ hg]
    exact Nat.add_le_add_left (hroom hg) _
  case inside =>
    intro i g o hg ho
    rw [hstart ho, hlen]
    calc slotStart w gs i + align g.data.length
      _ ≤ slotStart w gs (i + 1) := slotStart_succ hg ▸ Nat.add_le_add_left (hroom hg) _
      _ ≤ (gs.map w).sum := slotStart_le_sum gs (i + 1)
  case placed =>
    intro i g o j hg ho hj
    have hin : j < w g := hj.trans_le ((le_align _).trans (hroom hg))
    rw [hstart ho, slotBuffer_getElem? hfit.room hg hin, padTo_getElem?_of_lt hj]
  case filled =>
    intro k hk hout
    obtain ⟨i, g, j, hg, hj, rfl⟩ := exists_slot_of_lt (hlen ▸ hk)
    have hi : i < (slotOffsets w gs).length := by
      rw [slotOffsets_length]
      exact (List.getElem?_eq_some_iff.1 hg).1
    have ho := List.getElem?_eq_getElem hi
    have hbehind := hout i g _ hg ho
    rw [hstart ho] at hbehind
    rw [slotBuffer_getElem? hfit.room hg hj, padTo_getElem?_of_ge (by omega) hj]
  case multiple => rw [hlen]; exact sum_map_mod hfit.aligned

end

/-! ### Each layout command lays out slots (R166 to R171) -/

theorem slotBuffer_paddedLength (gs : List Segment) :
    slotBuffer paddedLength gs
      = gs.flatMap fun g => g.data ++ List.replicate ((256 - g.data.length % 256) % 256) 0 := by
  simp only [slotBuffer, paddedLength, padTo_align]

/-- Among slots of one width, slot `i` starts at `i` times the width (R169). -/
theorem slotStart_const (slot : Nat) {gs : List Segment} {i : Nat} (hi : i ≤ gs.length) :
    slotStart (fun _ => slot) gs i = i * slot := by
  simp [slotStart, hi]

theorem slotOffsets_const (slot : Nat) (gs : List Segment) :
    slotOffsets (fun _ => slot) gs
      = (List.range gs.length).map fun i => BitVec.ofNat 32 (i * slot) := by
  refine List.map_congr_left fun i hi => ?_
  rw [slotStart_const slot (List.mem_range.1 hi).le]

theorem slotOf_parts (s : State) : slotOf (parts s) = (s.seg.map paddedLength).foldr max 0 := by
  unfold parts
  induction s.seg with
  | nil => rfl
  | cons g gs ih => simp [slotOf, paddedLength, ih]

theorem equalBuffer_map_data (slot : Nat) (gs : List Segment) :
    equalBuffer slot (gs.map Segment.data) = slotBuffer (fun _ => slot) gs := by
  induction gs with
  | nil => rfl
  | cons g gs ih => simp [equalBuffer, ih]

theorem lsingleEffect_eq_slotLayout {s : State} {g : Segment} (h : s.seg = [g]) :
    lsingleEffect s = slotLayout paddedLength 0 s := by
  rw [lsingleEffect_of_seg_eq_singleton h]
  simp [slotLayout, storeLayout, slotBuffer, slotOffsets, paddedLength, h]

theorem slotStart_paddedLength (gs : List Segment) (i : Nat) :
    slotStart paddedLength gs i
      = (((gs.map Segment.data).take i).map fun p => align p.length).sum := by
  rw [slotStart, ← List.map_take, List.map_map]
  rfl

theorem lstackEffect_eq_slotLayout {s : State}
    (h : (s.seg.map paddedLength).sum ≤ Config.lenMax) :
    lstackEffect s = slotLayout paddedLength 0 s := by
  rw [lstackEffect_of_fits (ps := s.seg.map Segment.data) rfl (by rwa [List.map_map])]
  simp [slotLayout, storeLayout, slotBuffer_paddedLength, slotOffsets, slotStart_paddedLength,
    List.flatMap_map]

theorem lstackEffect_of_gt {s : State} (h : Config.lenMax < (s.seg.map paddedLength).sum) :
    lstackEffect s = raise .overflow 3 s := by
  have htotal : Config.lenMax < paddedTotal (parts s) := by
    rwa [paddedTotal_eq_sum, parts, List.map_map]
  exact if_pos htotal

theorem lequalEffect_eq_slotLayout {s : State} {slot : Nat} (hslot : slotOf (parts s) = slot)
    (h : s.seg.length * slot ≤ Config.lenMax) :
    lequalEffect s = slotLayout (fun _ => slot) (BitVec.ofNat 32 slot) s := by
  subst hslot
  rw [lequalEffect, if_neg (Nat.not_lt.2 h), slotLayout, slotOffsets_const, ← equalBuffer_map_data,
    storeLayout, List.map_map]
  rfl

theorem lequalEffect_of_gt {s : State} (h : Config.lenMax < s.seg.length * slotOf (parts s)) :
    lequalEffect s = raise .overflow 3 s := if_pos h

/-- Settles O30: one slot is the filled payload, and it starts at 0. -/
theorem lsingleLaysOutOneSegment : Obligations.LsingleLaysOutOneSegment := by
  refine ⟨by decide, fun s hrun => ⟨fun g hg => ?_, fun hcount => ?_⟩⟩
  · refine exec_eq_next .lsingle hrun ((lsingleEffect_of_seg_eq_singleton hg).trans ?_)
    rw [padTo_align]
    rfl
  · exact exec_eq_next .lsingle hrun (lsingleEffect_of_length_ne_one hcount)

/-- Settles O31: the slots are as wide as the padded lengths. -/
theorem lstackLaysOutBackToBack : Obligations.LstackLaysOutBackToBack := by
  refine ⟨by decide, ?_⟩
  rintro s _ hrun rfl
  refine ⟨fun hfit => ?_, fun hbig => exec_eq_next .lstack hrun (lstackEffect_of_gt hbig)⟩
  rw [exec_eq_next .lstack hrun (lstackEffect_eq_slotLayout hfit), slotLayout,
    slotBuffer_paddedLength]
  rfl

/-- Settles O32: the slots are all as wide as the largest padded length. -/
theorem lequalLaysOutEqualSlots : Obligations.LequalLaysOutEqualSlots := by
  refine ⟨by decide, fun s slot hrun hslot => ?_⟩
  have hmax : slotOf (parts s) = slot := (slotOf_parts s).trans hslot.symm
  refine ⟨fun hfit => ?_, fun hbig => exec_eq_next .lequal hrun (lequalEffect_of_gt (hmax ▸ hbig))⟩
  rw [exec_eq_next .lequal hrun (lequalEffect_eq_slotLayout hmax hfit), slotLayout,
    slotOffsets_const]
  rfl

/-! ### The invariants of all three layouts (R172) -/

theorem slotsFit_paddedLength {gs : List Segment}
    (h : ∀ i < gs.length, slotStart paddedLength gs i < 2 ^ 32) : SlotsFit paddedLength gs where
  room := fun _ _ => Nat.le_refl _
  aligned := fun _ _ => align_mod _
  starts := h

theorem slotsFit_slotOf {s : State} (h : s.seg.length * slotOf (parts s) ≤ Config.lenMax) :
    SlotsFit (fun _ => slotOf (parts s)) s.seg where
  room := fun _ hg => align_le_slotOf (List.mem_map_of_mem hg)
  aligned := fun _ _ => slotOf_mod (parts s)
  starts := fun i hi => by
    rw [slotStart_const _ hi.le]
    exact ((Nat.mul_le_mul_right _ hi.le).trans h).trans_lt (by decide)

/-- A layout command enters a fault, or lays out slots that fit. -/
theorem layoutEffect_cases {i : Instr} (hi : i = .lsingle ∨ i = .lstack ∨ i = .lequal) (s : State) :
    (∃ f v, effect i s = raise f v s) ∨
    ∃ w slot, SlotsFit w s.seg ∧ effect i s = slotLayout w slot s := by
  obtain rfl | rfl | rfl := hi
  · obtain ⟨-, he⟩ | ⟨g, hseg, -⟩ := lsingleEffect_cases s
    · exact .inl ⟨_, _, he⟩
    · refine .inr ⟨_, _, slotsFit_paddedLength fun i hi => ?_, lsingleEffect_eq_slotLayout hseg⟩
      obtain rfl : i = 0 := by simpa [hseg] using hi
      exact Nat.two_pow_pos 32
  · by_cases hfit : (s.seg.map paddedLength).sum ≤ Config.lenMax
    · refine .inr ⟨_, _, slotsFit_paddedLength fun i _ => ?_, lstackEffect_eq_slotLayout hfit⟩
      exact ((slotStart_le_sum s.seg i).trans hfit).trans_lt (by decide)
    · exact .inl ⟨_, _, lstackEffect_of_gt (Nat.not_le.1 hfit)⟩
  · by_cases hfit : s.seg.length * slotOf (parts s) ≤ Config.lenMax
    · exact .inr ⟨_, _, slotsFit_slotOf hfit, lequalEffect_eq_slotLayout rfl hfit⟩
    · exact .inl ⟨_, _, lequalEffect_of_gt (Nat.not_le.1 hfit)⟩

/-- The code of a hard failure is not 0 (R230). -/
theorem faultCode_ne_zero (f : HardFault) : faultCode f ≠ 0 := by
  cases f <;> decide

/-- Settles O33: a layout command that enters no fault lays out slots that fit. -/
theorem layoutInvariants : Obligations.LayoutInvariants := by
  intro i s t hi hrun h ht
  rw [exec_running i hrun] at h
  cases h
  obtain ⟨f, v, he⟩ | ⟨w, slot, hfit, he⟩ := layoutEffect_cases hi s <;> rw [he] at ht ⊢
  · exact absurd ht (faultCode_ne_zero f)
  · exact ⟨rfl, laidOut_of_slotsFit hfit⟩

/-! ### Page offsets as text (R173 to R176) -/

/-- Settles O34: the word's argument field is the index, and the text is that of its page offset. -/
theorem hexoffWritesPageOffset : Obligations.HexoffWritesPageOffset := by
  refine ⟨fun idx hidx => ?_, fun s idx hrun => ⟨fun o ho => ?_, fun hnone => ?_⟩⟩
  · have hword : (BitVec.ofNat 32 (0x09000000 + idx)).toNat = 0x09000000 + idx :=
      Nat.mod_eq_of_lt (by omega)
    obtain ⟨hhexoff, -⟩ := decodeVerdicts (BitVec.ofNat 32 (0x09000000 + idx)) 0x09 idx
      (by omega) (by omega)
    exact hhexoff rfl
  · rw [← pageOf_eq]
    exact exec_eq_next (.hexoff idx) hrun (hexoffEffect_of_getElem?_eq_some ho)
  · have ho : s.offs[idx]? = none := List.getElem?_eq_none hnone
    exact exec_eq_next (.hexoff idx) hrun (hexoffEffect_of_getElem?_eq_none ho)

/-- Settles O35: the increment is the page offset of `SLOT`. -/
theorem hexslotWritesIncrement : Obligations.HexslotWritesIncrement := by
  refine ⟨by decide, fun s hrun => ?_⟩
  rw [← pageOf_eq]
  exact exec_running .hexslot hrun

/-- A digit's byte is "0" for 0 only (R174). -/
theorem hexDigit_eq_zero_iff {d : Nat} (h : d < 16) : hexDigit d = 0x30 ↔ d = 0 := by
  revert d; decide

/-- One more digit at the end of a text (R174). -/
theorem hexValue_append_hexDigit {text : List Byte} {v d : Nat} (h : hexValue text = some v)
    (hd : d < 16) : hexValue (text ++ [hexDigit d]) = some (16 * v + d) := by
  rw [hexValue] at h
  simp [hexValue, List.foldl_append, h, digitValue_hexDigit hd]

theorem hexValue_hexDigit {d : Nat} (hd : d < 16) : hexValue [hexDigit d] = some d := by
  simpa using hexValue_append_hexDigit (text := []) (v := 0) rfl hd

theorem hexDigits_of_lt {v : Nat} (h : v < 16) (fuel : Nat) : hexDigits fuel v = [hexDigit v] := by
  cases fuel with
  | zero => rw [hexDigits, Nat.mod_eq_of_lt h]
  | succ fuel => exact if_pos h

theorem hexDigits_of_ge {v : Nat} (h : 16 ≤ v) (fuel : Nat) :
    hexDigits (fuel + 1) v = hexDigits fuel (v / 16) ++ [hexDigit (v % 16)] :=
  if_neg (Nat.not_lt.2 h)

theorem hexDigits_length_pos (fuel v : Nat) : 0 < (hexDigits fuel v).length := by
  cases fuel with
  | zero => exact Nat.one_pos
  | succ fuel => unfold hexDigits; split_ifs <;> simp

/-- With a digit for every power of 16 the text reads back as the number (R174). -/
theorem hexValue_hexDigits {fuel v : Nat} (h : v < 16 ^ (fuel + 1)) :
    hexValue (hexDigits fuel v) = some v := by
  induction fuel generalizing v with
  | zero => rw [hexDigits_of_lt h, hexValue_hexDigit h]
  | succ fuel ih =>
    by_cases hv : v < 16
    · rw [hexDigits_of_lt hv, hexValue_hexDigit hv]
    · have hquot : v / 16 < 16 ^ (fuel + 1) := Nat.div_lt_of_lt_mul (Nat.pow_succ' ▸ h)
      rw [hexDigits_of_ge (Nat.not_lt.1 hv),
        hexValue_append_hexDigit (ih hquot) (Nat.mod_lt v (by decide)), Nat.div_add_mod]

/-- The text of a number that is not 0 does not begin with "0" (R174). -/
theorem hexDigits_getElem?_zero_ne {fuel v : Nat} (hpos : 0 < v) (h : v < 16 ^ (fuel + 1)) :
    (hexDigits fuel v)[0]? ≠ some 0x30 := by
  have hone {d : Nat} (hd : 0 < d) (hlt : d < 16) : [hexDigit d][0]? ≠ some 0x30 :=
    fun hzero => hd.ne' ((hexDigit_eq_zero_iff hlt).1 (Option.some.inj hzero))
  induction fuel generalizing v with
  | zero => rw [hexDigits_of_lt h]; exact hone hpos h
  | succ fuel ih =>
    by_cases hv : v < 16
    · rw [hexDigits_of_lt hv]; exact hone hpos hv
    · have hquot : v / 16 < 16 ^ (fuel + 1) := Nat.div_lt_of_lt_mul (Nat.pow_succ' ▸ h)
      rw [hexDigits_of_ge (Nat.not_lt.1 hv), List.getElem?_append_left (hexDigits_length_pos _ _)]
      exact ih (by omega) hquot

theorem hex2_of_lt {v : Nat} (h : v < 16) : hex2 v = [hexDigit 0, hexDigit v] := if_pos h

theorem hex2_of_ge {v : Nat} (h : 16 ≤ v) : hex2 v = hexDigits 5 v := if_neg (Nat.not_lt.2 h)

/-- Settles O36: below 16 the text is "0" and one digit; from 16 on it is the digits themselves, at
least two and the first not "0". -/
theorem hexTextIsCanonical : Obligations.HexTextIsCanonical := by
  intro v hv
  have hmost : (hex2 v).length ≤ 6 := hex2_length_le v
  by_cases hsmall : v < 16
  · have hvalue : hexValue (hex2 v) = some v := by
      rw [hex2_of_lt hsmall]
      simpa using hexValue_append_hexDigit (hexValue_hexDigit (d := 0) (by decide)) hsmall
    have hlen : (hex2 v).length = 2 := by rw [hex2_of_lt hsmall]; rfl
    exact ⟨hvalue, hlen.ge, hmost, fun hlong => absurd hlen hlong.ne'⟩
  · have hbig : 16 ≤ v := Nat.not_lt.1 hsmall
    have htwo : 2 ≤ (hex2 v).length := by
      rw [hex2_of_ge hbig, hexDigits_of_ge hbig, List.length_append]
      exact Nat.succ_le_succ (hexDigits_length_pos _ _)
    rw [hex2_of_ge hbig] at hmost htwo ⊢
    exact ⟨hexValue_hexDigits hv, htwo, hmost, fun _ =>
      hexDigits_getElem?_zero_ne (by omega) hv⟩

end Sys2Proof.Machine

/-!
PROOFS. The statements of 44_serializer.md: the fields of the container (R191 to R194, R199), and
what SER does with the segments and the layout (R195 to R197).
-/

namespace Sys2Proof.Machine

/-! ### The container's fields (R191)

The container is a table of rows with nothing between them, so a row stands at the sum of the
lengths of the rows before it. -/

section
variable (name : List Byte) (r : Word) (lay : List Byte)

/-- The rows of R191, the four numbers of `VHDR` before the rate in one row and the two after it in
another. -/
def containerRows : List (List Byte) :=
  [tagForm, be32 (BitVec.ofNat 32 (sizeField name lay)), Config.formType, tagVhdr,
    be32 (BitVec.ofNat 32 Config.vhdrSize) ++ be32 0 ++ be32 0 ++ be32 0, be32 r, be16 1 ++ be16 0,
    tagName, be32 (BitVec.ofNat 32 (nameLen name)), name ++ zeros (nameLen name - name.length),
    tagBody, be32 (BitVec.ofNat 32 lay.length), lay]

/-- The lengths of the rows (R191). -/
def rowLengths : List Nat := [4, 4, 4, 4, 16, 4, 4, 4, 4, nameLen name, 4, 4, lay.length]

/-- The offset of row `i` (R191). -/
def rowOffset (i : Nat) : Nat := ((rowLengths name lay).take i).sum

theorem container_eq_flatten : container name r lay = (containerRows name r lay).flatten := by
  simp only [container, containerRows, List.flatten_cons, List.flatten_nil, List.append_nil,
    List.append_assoc]

/-- The name with its fill is as long as its size field says (R193). -/
theorem evenName_length : (name ++ zeros (nameLen name - name.length)).length = nameLen name := by
  simp only [zeros, nameLen, List.length_append, List.length_replicate]
  omega

theorem containerRows_map_length :
    (containerRows name r lay).map List.length = rowLengths name lay := by
  simp only [containerRows, rowLengths, List.map_cons, List.map_nil, evenName_length]
  rfl

/-- The rows after the name stand 48, 52 and 56 bytes beyond its length. -/
theorem rowOffset_after_name : rowOffset name lay 10 = 48 + nameLen name ∧
    rowOffset name lay 11 = 52 + nameLen name ∧ rowOffset name lay 12 = 56 + nameLen name := by
  simp only [rowOffset, rowLengths, List.take, List.sum_cons, List.sum_nil]
  omega

variable {name r lay} {i k n : Nat}

theorem drop_container (hk : rowOffset name lay i = k) :
    (container name r lay).drop k = ((containerRows name r lay).drop i).flatten := by
  rw [container_eq_flatten, ← hk, rowOffset, ← containerRows_map_length name r,
    List.drop_sum_flatten]

/-- Row `i` is read back at its offset. -/
theorem take_drop_container {row : List Byte} (hrow : (containerRows name r lay)[i]? = some row)
    (hk : rowOffset name lay i = k) (hn : row.length = n) :
    ((container name r lay).drop k).take n = row := by
  obtain ⟨hi, hget⟩ := List.getElem?_eq_some_iff.1 hrow
  rw [drop_container hk, List.drop_eq_getElem_cons hi, List.flatten_cons, hget, List.take_left' hn]

/-- A row of one big-endian word is read back as its value (R63). -/
theorem beValue_container {v : Word} (hrow : (containerRows name r lay)[i]? = some (be32 v))
    (hk : rowOffset name lay i = k) :
    beValue (((container name r lay).drop k).take 4) = v.toNat := by
  rw [take_drop_container hrow hk (be32_length v), beValue_be32]

/-- A size that fits 32 bits is read back from its row (R195). -/
theorem beValue_container_size
    (hrow : (containerRows name r lay)[i]? = some (be32 (BitVec.ofNat 32 n)))
    (hk : rowOffset name lay i = k) (hn : n < 2 ^ 32) :
    beValue (((container name r lay).drop k).take 4) = n :=
  (beValue_container hrow hk).trans (Nat.mod_eq_of_lt hn)

end

/-- Settles O37: each field is the row at its offset, and the bound on the size field lets every
size read back. -/
theorem containerFields : Obligations.ContainerFields := by
  rintro name lay _ r _ _ rfl rfl hfit rfl
  obtain ⟨hbody, hbodySize, hpayload⟩ := rowOffset_after_name name lay
  refine ⟨?length, take_drop_container (i := 0) rfl rfl rfl, ?formSize,
    take_drop_container (i := 2) rfl rfl rfl, take_drop_container (i := 3) rfl rfl rfl,
    take_drop_container (i := 4) rfl rfl rfl, beValue_container (i := 5) rfl rfl,
    take_drop_container (i := 6) rfl rfl rfl, take_drop_container (i := 7) rfl rfl rfl, ?nameSize,
    take_drop_container (i := 9) rfl rfl (evenName_length name),
    take_drop_container (i := 10) rfl hbody rfl, ?bodySize, ?payload⟩
  case length =>
    rw [container_length, sizeField, nameLen]
    omega
  case formSize => exact beValue_container_size (i := 1) rfl rfl (by omega)
  case nameSize => exact beValue_container_size (i := 8) rfl rfl (by omega)
  case bodySize => exact beValue_container_size (i := 11) rfl hbodySize (by omega)
  case payload => exact (drop_container hpayload).trans List.flatten_singleton

/-! ### SER (R195 to R197) -/

/-- Settles O38: the segments are checked first, then the size field, and the container is written
when both checks pass. -/
theorem serChecksThenSerializes : Obligations.SerChecksThenSerializes := by
  refine ⟨by decide, ?_⟩
  rintro s _ hrun rfl
  refine ⟨fun hnil => ?_, fun g gs hseg => ⟨fun hbig => ?_, fun hfit => ?_⟩⟩
  · exact exec_eq_next .ser hrun (serEffect_of_seg_eq_nil hnil)
  · have hne : s.seg ≠ [] := hseg ▸ List.cons_ne_nil g gs
    exact exec_eq_next .ser hrun (serEffect_of_size_gt hne hbig)
  · exact exec_eq_next .ser hrun (serEffect_of_size_le hseg hfit)

/-- A legal name tag takes at most 254 bytes of the container (R42, R193). -/
theorem nameLen_nameTag_le : nameLen Config.params.nameTag ≤ 254 := by
  have := Config.nameTag_length_le
  unfold nameLen
  omega

/-- Settles O39: with room for any name tag both blocks write the container of the first segment's
rate and of `LAY`, which they agree on. -/
theorem containerSeesOnlyFirstRate : Obligations.ContainerSeesOnlyFirstRate := by
  intro s u g h gs hs hrun hrun' hseg hseg' hrate hlay hroom
  have hfit : sizeField Config.params.nameTag s.lay ≤ 2 ^ 32 - 1 := by
    have := nameLen_nameTag_le
    unfold sizeField
    omega
  refine ⟨container Config.params.nameTag g.targetHz s.lay, ?_, ?_⟩
  · exact exec_eq_next .ser hrun (serEffect_of_size_le hseg hfit)
  · rw [hrate, hlay]
    exact exec_eq_next .ser hrun' (serEffect_of_size_le hseg' (hlay ▸ hfit))

end Sys2Proof.Machine

/-!
PROOFS. The statements of 45_pipeline_system.md: CONV's checks and writes, and CONV as the four units
(R210 to R212), and the housekeeping commands (R213 to R215).
-/

namespace Sys2Proof.Machine

/-! ### CONV's checks, in order (R211) -/

theorem convEffect_of_chans_ne_one {p : Config.Params} {s : State} (h : s.chans ≠ 1) :
    convEffect p s = raise .nonMono s.chans s := if_pos h

theorem convEffect_of_inBuf_eq_nil {p : Config.Params} {s : State} (hchans : s.chans = 1)
    (hin : s.inBuf = []) : convEffect p s = raise .emptyAudio 0 s :=
  (if_neg (not_not.2 hchans)).trans (if_pos (List.length_eq_zero_iff.2 hin))

theorem convEffect_of_rateOf_eq_none {p : Config.Params} {s : State} (hchans : s.chans = 1)
    (hin : s.inBuf ≠ []) (hrate : rateOf p s.note = none) :
    convEffect p s = raise .invalidNote (BitVec.ofNat 32 s.note.length) s := by
  simp [convEffect, hchans, hin, hrate]

theorem resampleOverflows_eq_true_iff {len s d : Nat} :
    resampleOverflows len s d = true ↔ s ≠ d ∧ Config.lenMax < outlen len s d :=
  decide_eq_true_iff

/-- The resampled length fits on the fast path, which does not ask for it, and up to `LEN_MAX`
(R141, R145). -/
theorem resampleOverflows_eq_false_iff {len s d : Nat} :
    resampleOverflows len s d = false ↔ s = d ∨ outlen len s d ≤ Config.lenMax := by
  rw [← Bool.not_eq_true, resampleOverflows_eq_true_iff]
  omega

/-! An input whose first three checks pass, with target rate `d`. -/

section
variable {p : Config.Params} {s : State} {d : Word} (hchans : s.chans = 1) (hin : s.inBuf ≠ [])
  (hrate : rateOf p s.note = some d)
include hchans hin hrate

/-- The checks that follow the rate lookup. -/
theorem convEffect_of_rateOf :
    convEffect p s =
      if s.srcHz = 0 then raise .badOperand 1 s
      else if resampleOverflows s.inBuf.length s.srcHz.toNat d.toNat then raise .overflow 1 s
      else if s.seg.length ≥ Config.segMax then raise .overflow 2 s
      else convert d s := by
  simp [convEffect, hchans, hin, hrate]

theorem convEffect_of_srcHz_eq_zero (hsrc : s.srcHz = 0) :
    convEffect p s = raise .badOperand 1 s := by
  rw [convEffect_of_rateOf hchans hin hrate, if_pos hsrc]

theorem convEffect_of_overflows (hsrc : s.srcHz ≠ 0)
    (hbig : resampleOverflows s.inBuf.length s.srcHz.toNat d.toNat = true) :
    convEffect p s = raise .overflow 1 s := by
  rw [convEffect_of_rateOf hchans hin hrate, if_neg hsrc, if_pos hbig]

theorem convEffect_of_full (hsrc : s.srcHz ≠ 0)
    (hfit : resampleOverflows s.inBuf.length s.srcHz.toNat d.toNat = false)
    (hfull : Config.segMax ≤ s.seg.length) : convEffect p s = raise .overflow 2 s := by
  rw [convEffect_of_rateOf hchans hin hrate, if_neg hsrc, if_neg (ne_true_of_eq_false hfit),
    if_pos hfull]

theorem convEffect_of_room (hsrc : s.srcHz ≠ 0)
    (hfit : resampleOverflows s.inBuf.length s.srcHz.toNat d.toNat = false)
    (hroom : s.seg.length < Config.segMax) : convEffect p s = convert d s := by
  rw [convEffect_of_rateOf hchans hin hrate, if_neg hsrc, if_neg (ne_true_of_eq_false hfit),
    if_neg (Nat.not_le.2 hroom)]

end

/-- A conversion of more than 65535 samples appends an oversize segment (R165, R234). -/
theorem warn_convert {d : Word} {s : State} (h : 65535 < (convert d s).q.length) :
    warn (convert d s) = true :=
  warn_eq_true_iff.2 ⟨_, List.mem_append_right _ (List.mem_singleton_self _), h⟩

/-- Settles O40: a running block executes `CONV`, whose checks are these conditions in this order,
and the rate it looks up is the one of the key's own entry. -/
theorem convChecksThenConverts : Obligations.ConvChecksThenConverts := by
  refine ⟨by decide, fun s hrun => ⟨fun hchans => ?_, fun hchans hin => ?_,
    fun hchans hin hnote => ?_, ?_⟩⟩
  · exact exec_eq_next .conv hrun (convEffect_of_chans_ne_one hchans)
  · exact exec_eq_next .conv hrun (convEffect_of_inBuf_eq_nil hchans hin)
  · exact exec_eq_next .conv hrun
      (convEffect_of_rateOf_eq_none hchans hin (rateOf_of_not_mem hnote))
  · rintro e d _ hchans hin he hkey hd rfl
    have hrate : rateOf Config.params s.note = some d := by
      rw [← hkey, rateOf_of_mem he, BitVec.eq_of_toNat_eq (hd.trans (rate_toNat e).symm)]
    have hfits
        (h : s.srcHz = d ∨ outlen s.inBuf.length s.srcHz.toNat d.toNat ≤ Config.lenMax) :
        resampleOverflows s.inBuf.length s.srcHz.toNat d.toNat = false :=
      resampleOverflows_eq_false_iff.2 (h.imp_left (congrArg BitVec.toNat))
    refine ⟨fun h0 => ?_, fun hsrc hne hbig => ?_, fun hsrc hfit hfull => ?_,
      fun hsrc hfit hroom => ?_⟩
    · exact exec_eq_next .conv hrun (convEffect_of_srcHz_eq_zero hchans hin hrate h0)
    · have hover := resampleOverflows_eq_true_iff.2 ⟨BitVec.toNat_ne.1 hne, hbig⟩
      exact exec_eq_next .conv hrun (convEffect_of_overflows hchans hin hrate hsrc hover)
    · exact exec_eq_next .conv hrun
        (convEffect_of_full hchans hin hrate hsrc (hfits hfit) hfull)
    · exact ⟨convert d s,
        exec_eq_next .conv hrun (convEffect_of_room hchans hin hrate hsrc (hfits hfit) hroom),
        rfl, warn_convert⟩

/-! ### CONV as the four units (R212) -/

/-- Settles O41: the checks of a successful `CONV` are those of the four units, each of which writes
its part of `convert` and leaves what the later ones read. -/
theorem convIsTheFourUnits : Obligations.ConvIsTheFourUnits := by
  intro s t hrun h ht
  rw [exec_running .conv hrun] at h
  cases h
  obtain ⟨f, v, he⟩ | ⟨d, -, -, hrate, hsrc, hfit, hroom, he⟩ := convEffect_cases Config.params s
  · exact absurd ((congrArg State.fcode he).symm.trans ht) (faultCode_ne_zero f)
  · refine ⟨_, _, _, exec_eq_next .rate hrun (rateEffect_of_rateOf hrate),
      exec_eq_next .resamp hrun (resampEffect_of_fits hsrc hfit), exec_eq_next .quant hrun rfl,
      exec_eq_next .push hrun ?_⟩
    exact Eq.trans (b := convert d s) (pushEffect_of_room hroom) he.symm

/-! ### NOP, CLEAR, RESET (R213 to R215) -/

/-- Settles O42: `NOP` ends in the same state whether it is ignored or not. -/
theorem nopChangesNothing : Obligations.NopChangesNothing := by
  refine ⟨by decide, fun s => ?_⟩
  rw [exec_eq]
  exact congrArg Host.Outcome.next (ite_self s)

/-- With no record and no segment both flags are 0 (R29). -/
theorem flags_eq_false {s : State} (hrun : s.fcode = 0) (hseg : s.seg = []) :
    halted s = false ∧ warn s = false :=
  ⟨halted_eq_false_iff.2 hrun, by rw [warn, hseg, List.any_nil]⟩

/-- Settles O43: `CLEAR` executes on every block, and what it writes leaves no record and no
segment. -/
theorem clearStartsRun : Obligations.ClearStartsRun :=
  ⟨by decide, fun s => ⟨clearRun s, rfl, rfl, flags_eq_false (clearRun_fcode s) (clearRun_seg s)⟩⟩

/-- Settles O44: the command, on every block, and the event are the one write `resetBlock`. -/
theorem resetGivesResetValues : Obligations.ResetGivesResetValues :=
  ⟨by decide, fun s => ⟨rfl, resetBlock s, rfl, rfl,
    flags_eq_false (resetBlock_fcode s) (resetBlock_seg s)⟩⟩

end Sys2Proof.Machine

/-!
PROOFS. The statements of 60_exceptions.md: the fault of an illegal word (R235), what fault entry
writes (R238), and the halt: what it ignores (R239), what ends it (R241), what it keeps (R242).
-/

namespace Sys2Proof.Machine

/-! ### Fault entry (R235, R238) -/

/-- A word that decodes to no command raises `IllegalCommand` unless the block is halted (R235). -/
theorem hostCommand_of_decode_error {w : Word} {why : IllegalWord} (h : decode w = .error why)
    (s : State) : hostCommand w s = unlessHalted (raise .illegalCommand w) s := by
  simp [hostCommand, h]

/-- Settles O6: a running block raises the fault of code 5. -/
theorem illegalWordFaults : Obligations.IllegalWordFaults := by
  intro s w why hrun hw
  rw [hostCommand_of_decode_error hw]
  exact unlessHalted_running _ hrun

/-- A command executed on a running block enters a fault or leaves the block running (R70, R238). -/
theorem effect_raises_or_runs (i : Instr) {s : State} (hrun : s.fcode = 0) :
    (∃ f v, effect i s = raise f v s) ∨ (effect i s).fcode = 0 := by
  cases i with
  | nop => exact .inr hrun
  | rate =>
    obtain ⟨-, h⟩ | ⟨r, -, h⟩ := rateEffect_cases Config.params s
    · exact .inl ⟨_, _, h⟩
    · exact .inr ((congrArg State.fcode h).trans hrun)
  | quant => exact .inr hrun
  | resamp =>
    obtain ⟨-, h⟩ | ⟨-, -, h⟩ | ⟨-, -, h⟩ := resampEffect_cases s
    · exact .inl ⟨_, _, h⟩
    · exact .inl ⟨_, _, h⟩
    · exact .inr ((congrArg State.fcode h).trans hrun)
  | align =>
    obtain ⟨-, h⟩ | ⟨-, h⟩ := alignEffect_cases s
    · exact .inl ⟨_, _, h⟩
    · exact .inr ((congrArg State.fcode h).trans hrun)
  | push =>
    obtain ⟨-, h⟩ | ⟨-, h⟩ := pushEffect_cases s
    · exact .inl ⟨_, _, h⟩
    · exact .inr ((congrArg State.fcode h).trans hrun)
  | lsingle | lstack | lequal =>
    exact (layoutEffect_cases (by simp) s).imp_right fun ⟨_, _, _, h⟩ =>
      (congrArg State.fcode h).trans hrun
  | hexoff idx =>
    obtain ⟨-, h⟩ | ⟨o, -, h⟩ := hexoffEffect_cases idx s
    · exact .inl ⟨_, _, h⟩
    · exact .inr ((congrArg State.fcode h).trans hrun)
  | hexslot => exact .inr hrun
  | ser =>
    obtain ⟨-, h⟩ | ⟨-, -, h⟩ | ⟨g, gs, -, -, h⟩ := serEffect_cases Config.params s
    · exact .inl ⟨_, _, h⟩
    · exact .inl ⟨_, _, h⟩
    · exact .inr ((congrArg State.fcode h).trans hrun)
  | conv =>
    obtain ⟨f, v, h⟩ | ⟨d, -, -, -, -, -, -, h⟩ := convEffect_cases Config.params s
    · exact .inl ⟨f, v, h⟩
    · exact .inr ((congrArg State.fcode h).trans hrun)
  | clear => exact .inr rfl
  | reset => exact .inr rfl

/-- Settles O12: a command that leaves a code other than 0 has entered a fault, which writes the
record. -/
theorem faultWritesOnlyTheRecord : Obligations.FaultWritesOnlyTheRecord := by
  intro i s t hrun h ht
  rw [exec_running i hrun] at h
  cases h
  obtain ⟨f, v, he⟩ | hzero := effect_raises_or_runs i hrun
  · rw [he]
    rfl
  · exact absurd hzero ht

/-! ### The halt (R239 to R242)

Of the host's operations only the three of `endsRun` take a halted block out of its halt. Every other
one writes at most the buffers and registers the host may write, so the record and the products stay. -/

/-- `s` with everything the host may write from outside, by `HostSet` and `HostWriteReg`, and what it
was last given, taken from `t` (R22, R30, R62). -/
def hostWrittenFrom (t s : State) : State :=
  { s with
    srcHz := t.srcHz, chans := t.chans, dstHz := t.dstHz, areg := t.areg, segSel := t.segSel
    note := t.note, label := t.label, inBuf := t.inBuf, rs := t.rs, q := t.q, lay := t.lay
    reply := t.reply }

theorem storeBytes_eq_hostWrittenFrom {b : ByteBuf} (hb : hostWritable b = true) (bytes : List Byte)
    (s : State) : storeBytes b bytes s = hostWrittenFrom (storeBytes b bytes s) s := by
  cases b with
  | note | label | q | lay => rfl
  | out | hex | fnote | flabel => cases hb

theorem storeSamples_eq_hostWrittenFrom (b : SampleBuf) (xs : List Sample) (s : State) :
    storeSamples b xs s = hostWrittenFrom (storeSamples b xs s) s := by
  cases b <;> rfl

theorem writeReg_eq_hostWrittenFrom (r : Nat) (v : Word) (s : State) :
    writeReg r v s = hostWrittenFrom (writeReg r v s) s := by
  obtain h | h | h | h | h | h := writeReg_cases r v s <;> rw [h] <;> rfl

/-- A halted block ignores a presented word that ends no run, legal or not (R239). -/
theorem hostCommand_halted {op : HostOp} {w : Word} {s : State} (hhalt : s.fcode ≠ 0)
    (hop : op = .command w ∨ op = .writeReg 0 w) (hgo : endsRun op = false) :
    hostCommand w s = .next s := by
  obtain ⟨i, hi, he⟩ | ⟨why, -, he⟩ := hostCommand_cases w s
  · have hne (hends : i = .clear ∨ i = .reset) : False :=
      ne_true_of_eq_false hgo (endsRun_of_decode hop hi hends)
    rw [he, exec_halted hhalt (hne ∘ .inl) (hne ∘ .inr)]
  · rw [he, if_pos hhalt]

/-- On a halted block an operation that ends no run writes only what the host may write (R239). -/
theorem hostOp_halted_frame {op : HostOp} {s t : State} (hhalt : s.fcode ≠ 0)
    (hgo : endsRun op = false) (h : hostOp op s = .next t) : t = hostWrittenFrom t s := by
  obtain ⟨w, hop, hw⟩ | ⟨rfl, -⟩ | ⟨b, bytes, -, hb, -, rfl⟩ | ⟨b, xs, -, -, rfl⟩ | ⟨v, -, rfl⟩ |
    ⟨r, v, -, -, rfl⟩ := hostOp_cases h
  · rw [hostCommand_halted hhalt hop hgo] at hw
    cases hw
    rfl
  · cases hgo
  · exact storeBytes_eq_hostWrittenFrom hb bytes s
  · exact storeSamples_eq_hostWrittenFrom b xs s
  · rfl
  · exact writeReg_eq_hostWrittenFrom r v s

/-- The three operations that end a run write what `CLEAR` or reset writes, on every block (R214,
R215, R260). -/
theorem eq_clearRun_or_resetBlock_of_endsRun {op : HostOp} {s t : State} (hends : endsRun op = true)
    (h : hostOp op s = .next t) : t = clearRun s ∨ t = resetBlock s := by
  simp only [endsRun, decide_eq_true_eq, List.mem_cons, List.not_mem_nil, or_false] at hends
  obtain rfl | rfl | rfl | rfl | rfl := hends <;> cases h
  exacts [.inl rfl, .inr rfl, .inl rfl, .inr rfl, .inr rfl]

/-- Settles O55: the three operations write `clearRun` or `resetBlock`, and every other one keeps the
code. -/
theorem haltEndsOnlyByClearOrReset : Obligations.HaltEndsOnlyByClearOrReset := by
  intro op s t hhalt h
  refine ⟨⟨fun hzero => ?_, fun hends => ?_⟩, fun hends => ?_⟩
  · by_contra hgo
    have hcode : t.fcode = s.fcode :=
      (congrArg State.fcode (hostOp_halted_frame hhalt (eq_false_of_ne_true hgo) h) :)
    exact hhalt (hcode.symm.trans hzero)
  · obtain rfl | rfl := eq_clearRun_or_resetBlock_of_endsRun hends h <;> rfl
  · obtain rfl | rfl := eq_clearRun_or_resetBlock_of_endsRun hends h <;>
      exact ⟨rfl, rfl, rfl, rfl, rfl, rfl⟩

/-- Settles O7: the two words are the only ones that end a run, and the record is not among what the
host may write. -/
theorem haltedBlockIgnoresWords : Obligations.HaltedBlockIgnoresWords := by
  intro s hhalt
  refine ⟨fun w hclear hreset => ?_, fun op t hgo h => ?_⟩
  · exact hostCommand_halted hhalt (.inl rfl) (by simpa [endsRun] using ⟨hclear, hreset⟩)
  · rw [hostOp_halted_frame hhalt hgo h]
    exact ⟨rfl, rfl, rfl, rfl⟩

/-- Settles O56: an operation that leaves the block halted ends no run, and neither the record nor a
product is among what the host may write. -/
theorem firstFaultStays : Obligations.FirstFaultStays := by
  intro op s t hhalt h ht
  have hgo : endsRun op = false :=
    eq_false_of_ne_true fun hends => ht ((haltEndsOnlyByClearOrReset op s t hhalt h).1.2 hends)
  rw [hostOp_halted_frame hhalt hgo h]
  exact ⟨rfl, rfl, rfl, rfl, rfl, rfl, rfl, rfl, rfl⟩

end Sys2Proof.Machine

/-!
PROOFS. The statement of 70_reset_and_hazards.md: every command ends (R271).
-/

namespace Sys2Proof.Machine

/-- Settles O10: a command ends in its effect, or in the same state on a halted block that ignores
it; both are next states, for a fault of the block is a state too (R239, R271). -/
theorem everyCommandEnds : Obligations.EveryCommandEnds :=
  fun i s => ⟨_, exec_eq i s⟩

end Sys2Proof.Machine
